-- ==== Sys2Proof/Word.lean ====
section
/-! DEFINITION. The word types of the machine (00_scope.md R12, R15). -/

namespace Sys2Proof

/-- An 8-bit value: a memory byte, a general register, a timer (10_state.md R30). -/
abbrev Byte := BitVec 8

/-- A 16-bit value: an opcode word, `PC`, `I`, a stack slot (10_state.md R30). -/
abbrev Word := BitVec 16

/-- A 4-bit value: a register index, a key number, a row count (30_encoding.md R81). -/
abbrev Nibble := BitVec 4

/-- A 12-bit address field `NNN` (30_encoding.md R81). -/
abbrev Addr := BitVec 12

end Sys2Proof
end

