-- ==== Sys2Proof/Config.lean ====
section
/-! DEFINITION. What an implementation fixes and the free values.

The spec's three open parameters (00_scope.md R13) are: `FONT`, an argument of the `Reset` operation with the default
table of 10_state.md R49 (Machine/Memory.lean, `font`); `rnd`, below; `CYCLES_PER_TICK`, which no rule reads, so that it
has no definition here (any schedule of operations is allowed). -/

namespace Sys2Proof

/-- The random byte of the `n`-th free draw (00_scope.md R13, 41_register_immediate.md R114: "any value 0..255, chosen
anew for every cycle"). A free value: it has no body, so a statement about it holds for every supply of bytes.
DESIGN CHOICE, safe (log 3). -/
opaque Config.rndByte : Nat → Byte

end Sys2Proof
end

