-- ==== Sys2Proof/Syntax.lean ====
section
/-! DEFINITION. The instructions: one constructor per row of spec/opcode_table.json (30_encoding.md R90). -/

namespace Sys2Proof

/-- The 35 operations of 30_encoding.md R90. `x`, `y` are the register fields `X`, `Y`; `n`, `nn`, `nnn` the immediates
`N`, `NN`, `NNN` (00_scope.md R18). A field an operation decodes and ignores (`NNN` of `SYS`, `Y` of `SHR` and `SHL`) is
kept, so that no bit of a word is lost. -/
inductive Instr where
  /-- `00E0`, clear framebuffer. -/
  | cls
  /-- `00EE`, return from subroutine. -/
  | ret
  /-- `0NNN`, no-op (legacy call). -/
  | sys (nnn : Addr)
  /-- `1NNN`, jump to NNN. -/
  | jp (nnn : Addr)
  /-- `2NNN`, call subroutine at NNN. -/
  | call (nnn : Addr)
  /-- `3XNN`, skip next instr if Vx==NN. -/
  | seImm (x : Nibble) (nn : Byte)
  /-- `4XNN`, skip next instr if Vx!=NN. -/
  | sneImm (x : Nibble) (nn : Byte)
  /-- `5XY0`, skip next instr if Vx==Vy. -/
  | seReg (x y : Nibble)
  /-- `6XNN`, Vx = NN. -/
  | ldImm (x : Nibble) (nn : Byte)
  /-- `7XNN`, Vx += NN. -/
  | addImm (x : Nibble) (nn : Byte)
  /-- `8XY0`, Vx = Vy. -/
  | ldReg (x y : Nibble)
  /-- `8XY1`, Vx = Vx OR Vy. -/
  | orReg (x y : Nibble)
  /-- `8XY2`, Vx = Vx AND Vy. -/
  | andReg (x y : Nibble)
  /-- `8XY3`, Vx = Vx XOR Vy. -/
  | xorReg (x y : Nibble)
  /-- `8XY4`, Vx += Vy. -/
  | addReg (x y : Nibble)
  /-- `8XY5`, Vx -= Vy. -/
  | sub (x y : Nibble)
  /-- `8XY6`, Vx >>= 1. -/
  | shr (x y : Nibble)
  /-- `8XY7`, Vx = Vy − Vx. -/
  | subn (x y : Nibble)
  /-- `8XYE`, Vx <<= 1. -/
  | shl (x y : Nibble)
  /-- `9XY0`, skip next instr if Vx!=Vy. -/
  | sneReg (x y : Nibble)
  /-- `ANNN`, I = NNN. -/
  | ldI (nnn : Addr)
  /-- `BNNN`, PC = NNN + V0. -/
  | jpV0 (nnn : Addr)
  /-- `CXNN`, Vx = random_byte() AND NN. -/
  | rnd (x : Nibble) (nn : Byte)
  /-- `DXYN`, draw N-row, 8-bit-wide sprite at (Vx,Vy) from memory[I..]. -/
  | drw (x y n : Nibble)
  /-- `EX9E`, skip if key Vx pressed. -/
  | skp (x : Nibble)
  /-- `EXA1`, skip if key Vx not pressed. -/
  | sknp (x : Nibble)
  /-- `FX07`, Vx = delayTimer. -/
  | ldVxDt (x : Nibble)
  /-- `FX0A`, Vx = next key pressed. -/
  | ldVxK (x : Nibble)
  /-- `FX15`, delayTimer = Vx. -/
  | ldDtVx (x : Nibble)
  /-- `FX18`, soundTimer = Vx. -/
  | ldStVx (x : Nibble)
  /-- `FX1E`, I += Vx. -/
  | addI (x : Nibble)
  /-- `FX29`, I = font_base + Vx*5. -/
  | ldF (x : Nibble)
  /-- `FX33`, store BCD digits of Vx at I, I+1, I+2. -/
  | ldB (x : Nibble)
  /-- `FX55`, dump V0..Vx into memory[I..]. -/
  | ldMemVx (x : Nibble)
  /-- `FX65`, load V0..Vx from memory[I..]. -/
  | ldVxMem (x : Nibble)
  deriving DecidableEq, Repr

end Sys2Proof
end

