-- ==== Sys2Proof/Decode.lean ====
section
/-! DEFINITION. The sub-block `instruction_decoder` (30_encoding.md), the encoder (R97) and the rows of the opcode map
(R90). -/

namespace Sys2Proof

/-- What the decoder makes of a word: one of the 35 operations, or the explicit terminal case `UnknownOpcode`
(30_encoding.md R89). -/
inductive Decoded where
  | op (i : Instr)
  | unknown
  deriving DecidableEq, Repr

/-- Why a list of bytes holds no instruction. -/
inductive DecodeReject where
  /-- The word matches no row of 30_encoding.md R90 (R91). -/
  | unknownOpcode (word : Word)
  /-- Fewer than the two bytes of an instruction (R80). -/
  | truncated
  deriving DecidableEq, Repr

/-- `op[15:12]`, the leading nibble (30_encoding.md R81). -/
def leadNibble (op : Word) : Nibble := op.extractLsb' 12 4

/-- `X = op[11:8]` (30_encoding.md R81). -/
def fieldX (op : Word) : Nibble := op.extractLsb' 8 4

/-- `Y = op[7:4]` (30_encoding.md R81). -/
def fieldY (op : Word) : Nibble := op.extractLsb' 4 4

/-- `N = op[3:0]` (30_encoding.md R81). -/
def fieldN (op : Word) : Nibble := op.extractLsb' 0 4

/-- `NN = op[7:0]` (30_encoding.md R81). -/
def fieldNN (op : Word) : Byte := op.extractLsb' 0 8

/-- `NNN = op[11:0]` (30_encoding.md R81). -/
def fieldNNN (op : Word) : Addr := op.extractLsb' 0 12

/-- Leading nibble 0: the full word is compared first (30_encoding.md R85). -/
def decodeFamily0 (op : Word) : Instr :=
  if op = 0x00E0#16 then .cls
  else if op = 0x00EE#16 then .ret
  else .sys (fieldNNN op)

/-- Leading nibble 8: the second-level dispatch on the trailing nibble (30_encoding.md R86). -/
def decodeFamily8 (x y n : Nibble) : Decoded :=
  match n.toNat with
  | 0x0 => .op (.ldReg x y)
  | 0x1 => .op (.orReg x y)
  | 0x2 => .op (.andReg x y)
  | 0x3 => .op (.xorReg x y)
  | 0x4 => .op (.addReg x y)
  | 0x5 => .op (.sub x y)
  | 0x6 => .op (.shr x y)
  | 0x7 => .op (.subn x y)
  | 0xE => .op (.shl x y)
  | _ => .unknown

/-- Leading nibble E: the dispatch on the trailing byte (30_encoding.md R88). -/
def decodeFamilyE (x : Nibble) (nn : Byte) : Decoded :=
  match nn.toNat with
  | 0x9E => .op (.skp x)
  | 0xA1 => .op (.sknp x)
  | _ => .unknown

/-- Leading nibble F: the dispatch on the trailing byte (30_encoding.md R88). -/
def decodeFamilyF (x : Nibble) (nn : Byte) : Decoded :=
  match nn.toNat with
  | 0x07 => .op (.ldVxDt x)
  | 0x0A => .op (.ldVxK x)
  | 0x15 => .op (.ldDtVx x)
  | 0x18 => .op (.ldStVx x)
  | 0x1E => .op (.addI x)
  | 0x29 => .op (.ldF x)
  | 0x33 => .op (.ldB x)
  | 0x55 => .op (.ldMemVx x)
  | 0x65 => .op (.ldVxMem x)
  | _ => .unknown

/-- Leading nibbles 5 and 9: the full pattern, trailing nibble 0, is required (30_encoding.md R87). -/
def decodeWhenN0 (i : Instr) (n : Nibble) : Decoded :=
  if n = 0#4 then .op i else .unknown

/-- The decoder, total on all 65536 words (30_encoding.md R84 to R89). -/
def decodeWord (op : Word) : Decoded :=
  match (leadNibble op).toNat with
  | 0x0 => .op (decodeFamily0 op)
  | 0x1 => .op (.jp (fieldNNN op))
  | 0x2 => .op (.call (fieldNNN op))
  | 0x3 => .op (.seImm (fieldX op) (fieldNN op))
  | 0x4 => .op (.sneImm (fieldX op) (fieldNN op))
  | 0x5 => decodeWhenN0 (.seReg (fieldX op) (fieldY op)) (fieldN op)
  | 0x6 => .op (.ldImm (fieldX op) (fieldNN op))
  | 0x7 => .op (.addImm (fieldX op) (fieldNN op))
  | 0x8 => decodeFamily8 (fieldX op) (fieldY op) (fieldN op)
  | 0x9 => decodeWhenN0 (.sneReg (fieldX op) (fieldY op)) (fieldN op)
  | 0xA => .op (.ldI (fieldNNN op))
  | 0xB => .op (.jpV0 (fieldNNN op))
  | 0xC => .op (.rnd (fieldX op) (fieldNN op))
  | 0xD => .op (.drw (fieldX op) (fieldY op) (fieldN op))
  | 0xE => decodeFamilyE (fieldX op) (fieldNN op)
  | _ => decodeFamilyF (fieldX op) (fieldNN op)

/-- The word of two bytes, the byte at the lower address in bits 15..8 (20_memory.md R66, R67). -/
def wordOfBytes (hi lo : Byte) : Word := hi ++ lo

/-- The byte stored at the lower address (20_memory.md R67). -/
def highByte (w : Word) : Byte := w.extractLsb' 8 8

/-- The byte stored at the next address (20_memory.md R67). -/
def lowByte (w : Word) : Byte := w.extractLsb' 0 8

/-- Decoding bytes as they lie in memory: an instruction and the rest, or a rejection by name (30_encoding.md R80). -/
def decodeBytes : List Byte → Except DecodeReject (Instr × List Byte)
  | hi :: lo :: rest =>
    match decodeWord (wordOfBytes hi lo) with
    | .op i => .ok (i, rest)
    | .unknown => .error (.unknownOpcode (wordOfBytes hi lo))
  | _ => .error .truncated

/-- `(leading nibble << 12) | NNN` (30_encoding.md R97). -/
def packA (l : Nibble) (nnn : Addr) : Word := l ++ nnn

/-- `(leading nibble << 12) | (X << 8) | NN` (30_encoding.md R97). -/
def packRI (l x : Nibble) (nn : Byte) : Word := (l ++ x) ++ nn

/-- `(leading nibble << 12) | (X << 8) | (Y << 4) | N` (30_encoding.md R97). -/
def packRR (l x y n : Nibble) : Word := (l ++ x) ++ (y ++ n)

/-- The word of an instruction (30_encoding.md R90, R97). -/
def encode : Instr → Word
  | .cls => 0x00E0#16
  | .ret => 0x00EE#16
  | .sys nnn => packA 0x0#4 nnn
  | .jp nnn => packA 0x1#4 nnn
  | .call nnn => packA 0x2#4 nnn
  | .seImm x nn => packRI 0x3#4 x nn
  | .sneImm x nn => packRI 0x4#4 x nn
  | .seReg x y => packRR 0x5#4 x y 0x0#4
  | .ldImm x nn => packRI 0x6#4 x nn
  | .addImm x nn => packRI 0x7#4 x nn
  | .ldReg x y => packRR 0x8#4 x y 0x0#4
  | .orReg x y => packRR 0x8#4 x y 0x1#4
  | .andReg x y => packRR 0x8#4 x y 0x2#4
  | .xorReg x y => packRR 0x8#4 x y 0x3#4
  | .addReg x y => packRR 0x8#4 x y 0x4#4
  | .sub x y => packRR 0x8#4 x y 0x5#4
  | .shr x y => packRR 0x8#4 x y 0x6#4
  | .subn x y => packRR 0x8#4 x y 0x7#4
  | .shl x y => packRR 0x8#4 x y 0xE#4
  | .sneReg x y => packRR 0x9#4 x y 0x0#4
  | .ldI nnn => packA 0xA#4 nnn
  | .jpV0 nnn => packA 0xB#4 nnn
  | .rnd x nn => packRI 0xC#4 x nn
  | .drw x y n => packRR 0xD#4 x y n
  | .skp x => packRI 0xE#4 x 0x9E#8
  | .sknp x => packRI 0xE#4 x 0xA1#8
  | .ldVxDt x => packRI 0xF#4 x 0x07#8
  | .ldVxK x => packRI 0xF#4 x 0x0A#8
  | .ldDtVx x => packRI 0xF#4 x 0x15#8
  | .ldStVx x => packRI 0xF#4 x 0x18#8
  | .addI x => packRI 0xF#4 x 0x1E#8
  | .ldF x => packRI 0xF#4 x 0x29#8
  | .ldB x => packRI 0xF#4 x 0x33#8
  | .ldMemVx x => packRI 0xF#4 x 0x55#8
  | .ldVxMem x => packRI 0xF#4 x 0x65#8

/-- The two bytes of an instruction, high byte first (20_memory.md R67, 30_encoding.md R97). -/
def encodeBytes (i : Instr) : List Byte := [highByte (encode i), lowByte (encode i)]

/-- The `mask` column of the instruction's row (30_encoding.md R90). -/
def rowMask : Instr → Word
  | .cls | .ret => 0xFFFF#16
  | .sys _ | .jp _ | .call _ | .ldI _ | .jpV0 _ => 0xF000#16
  | .seImm _ _ | .sneImm _ _ | .ldImm _ _ | .addImm _ _ | .rnd _ _ | .drw _ _ _ => 0xF000#16
  | .seReg _ _ | .sneReg _ _ | .ldReg _ _ | .orReg _ _ | .andReg _ _ | .xorReg _ _ => 0xF00F#16
  | .addReg _ _ | .sub _ _ | .shr _ _ | .subn _ _ | .shl _ _ => 0xF00F#16
  | .skp _ | .sknp _ | .ldVxDt _ | .ldVxK _ | .ldDtVx _ | .ldStVx _ | .addI _ | .ldF _ => 0xF0FF#16
  | .ldB _ | .ldMemVx _ | .ldVxMem _ => 0xF0FF#16

/-- The `match` column of the instruction's row (30_encoding.md R90). -/
def rowMatch : Instr → Word
  | .cls => 0x00E0#16
  | .ret => 0x00EE#16
  | .sys _ => 0x0000#16
  | .jp _ => 0x1000#16
  | .call _ => 0x2000#16
  | .seImm _ _ => 0x3000#16
  | .sneImm _ _ => 0x4000#16
  | .seReg _ _ => 0x5000#16
  | .ldImm _ _ => 0x6000#16
  | .addImm _ _ => 0x7000#16
  | .ldReg _ _ => 0x8000#16
  | .orReg _ _ => 0x8001#16
  | .andReg _ _ => 0x8002#16
  | .xorReg _ _ => 0x8003#16
  | .addReg _ _ => 0x8004#16
  | .sub _ _ => 0x8005#16
  | .shr _ _ => 0x8006#16
  | .subn _ _ => 0x8007#16
  | .shl _ _ => 0x800E#16
  | .sneReg _ _ => 0x9000#16
  | .ldI _ => 0xA000#16
  | .jpV0 _ => 0xB000#16
  | .rnd _ _ => 0xC000#16
  | .drw _ _ _ => 0xD000#16
  | .skp _ => 0xE09E#16
  | .sknp _ => 0xE0A1#16
  | .ldVxDt _ => 0xF007#16
  | .ldVxK _ => 0xF00A#16
  | .ldDtVx _ => 0xF015#16
  | .ldStVx _ => 0xF018#16
  | .addI _ => 0xF01E#16
  | .ldF _ => 0xF029#16
  | .ldB _ => 0xF033#16
  | .ldMemVx _ => 0xF055#16
  | .ldVxMem _ => 0xF065#16

/-- The bytes, in memory order, of an instruction whose bits are `w`, of which `nbits` are given and the rest are 0: one
16-bit word, bit 0 its least significant, high byte at the lower address (20_memory.md R67, 30_encoding.md R80). -/
def tableWord (nbits w : Nat) : Word := BitVec.ofNat 16 (w % 2 ^ nbits)

/-- The instruction the decoder reads from a word given as spec/opcode_table.json numbers its bits. No row has more than
the 16 bits of the one word (30_encoding.md R80). -/
def decodeTableWord (nbits w : Nat) : Option Instr :=
  if nbits ≤ 16 then
    match decodeBytes [highByte (tableWord nbits w), lowByte (tableWord nbits w)] with
    | .ok (i, _) => some i
    | .error _ => none
  else none

end Sys2Proof
end

