-- ==== Sys2Proof/Machine/State.lean ====
section
/-! DEFINITION. The state of the machine (10_state.md), plain data, the reasons a step can stop, and the state after
`Reset`. -/

namespace Sys2Proof.Machine

/-- Why the engine is halted (10_state.md R44, 60_exceptions.md R181, R182: the names are the cause codes). -/
inductive HaltReason where
  /-- `2NNN` with `SP = 16` (60_exceptions.md R191). -/
  | stackOverflow
  /-- `00EE` with `SP = 0` (60_exceptions.md R192). -/
  | stackUnderflow
  /-- The host's `Stop` (60_exceptions.md R193). -/
  | externalStop
  deriving DecidableEq, Repr

/-- `ES`, the engine state (10_state.md R44). -/
inductive EngineState where
  | running
  /-- Entered by `FX0A`; `x` is the register the key press will be written to. -/
  | awaitingKey (x : Nibble)
  /-- Terminal: only `Reset` leaves it (60_exceptions.md R196). -/
  | halted (reason : HaltReason)
  deriving DecidableEq, Repr

/-- What a `Cycle` may report (00_scope.md R11). -/
inductive Event where
  /-- The address fetched from and the word (60_exceptions.md R188). -/
  | unknownOpcode (addr word : Word)
  /-- Raised by every `00E0` and `DXYN` (43_register_register_nibble.md R146). -/
  | frameDirty
  deriving DecidableEq, Repr

/-- What `LoadProgram` returns (70_reset_and_hazards.md R213). -/
inductive LoadResult where
  | ok
  | romTooLarge
  deriving DecidableEq, Repr

/-- The operations the host invokes (00_scope.md R8), with their arguments. A key number is 4 bits, so that none outside
0..15 can be written (93_implementation_defined.md U17). -/
inductive HostOp where
  /-- `Cycle(rnd)`. -/
  | cycle (rnd : Byte)
  | timerTick
  | keyDown (k : Nibble)
  | keyUp (k : Nibble)
  | stop
  /-- `Reset(FONT)`. -/
  | reset (font : Vector Byte 80)
  | loadProgram (bytes : List Byte)
  deriving DecidableEq, Repr

/-- Why the machine stops with a fault. -/
inductive Fault where
  /-- Raised by the engine when it is `Halted(reason)` and no operation of the host is left in `schedule`: the spec
  gives a halted engine no `Cycle` step at all (60_exceptions.md R187, R196; 93_implementation_defined.md U12). Safe:
  the machine stops where the spec says it is stuck (log 8). -/
  | halted (reason : HaltReason)
  deriving DecidableEq, Repr

/-- Why the machine gives no meaning. -/
inductive Refusal where
  /-- Raised by an arm of `exec` whose instruction has no meaning in this model: no arm raises it. Safe. -/
  | notModelled (mnemonic : String)
  /-- Raised by the operation `LoadProgram` once a `Cycle` has run: the spec says that a model refuses it
  (70_reset_and_hazards.md R214). Safe. -/
  | loadProgramAfterCycle
  deriving DecidableEq, Repr

/-- The framebuffer, 32 rows of 64 one-bit pixels (10_state.md R46): row `y`, then column `x`. -/
abbrev Framebuffer := Vector (Vector Bool 64) 32

/-- The complete state of the block (10_state.md R30), and after it the model's own fields: the outputs of the latest
operation, the inputs the host has still to give, and a counter of free draws (logs 4, 5, 6, 7). -/
structure State where
  /-- `MEM` in canonical form: the bytes that differ from the contents after `Reset` (20_memory.md R60). -/
  mem : List Host.Cell
  /-- `V[0]` .. `V[15]` (10_state.md R31); `V[15]` doubles as the flag (R32). -/
  v : Vector Byte 16
  /-- `I` (10_state.md R41). -/
  i : Word
  /-- `PC` (10_state.md R37). -/
  pc : Word
  /-- `STACK[0]` .. `STACK[15]` (10_state.md R42). -/
  stack : Vector Word 16
  /-- `SP`, the count of entries in use, 0 to 16 (10_state.md R42). -/
  sp : Fin 17
  /-- `DT` (10_state.md R43). -/
  dt : Byte
  /-- `ST` (10_state.md R43). -/
  st : Byte
  /-- `FB` (10_state.md R46). -/
  fb : Framebuffer
  /-- `KEY[0]` .. `KEY[15]` (10_state.md R47). -/
  key : Vector Bool 16
  /-- `ES` (10_state.md R44). -/
  es : EngineState
  /-- The model's own: the event list the latest operation returned (00_scope.md R11; log 6). -/
  events : List Event
  /-- The model's own: what the latest operation returned, if it was a `LoadProgram` (70_reset_and_hazards.md R213;
  log 6). -/
  loadResult : Option LoadResult
  /-- The model's own: whether a `Cycle` has run since `Reset` (70_reset_and_hazards.md R214; log 7). -/
  ran : Bool
  /-- The model's own: the operations the host is going to invoke, oldest first (00_scope.md R7, R8; log 5). -/
  schedule : List HostOp
  /-- The model's own: the `rnd` argument of the `Cycle` in progress, where the schedule gave one (00_scope.md R13;
  log 4). -/
  rnd : Option Byte
  /-- The model's own: how many free random bytes have been drawn (log 4). -/
  draws : Nat
  deriving DecidableEq, Repr

/-- The state after `Reset` with the default `FONT` (70_reset_and_hazards.md R210, R211): memory lists nothing, since an
unlisted address reads as its contents after `Reset` (Machine/Memory.lean, `resetByte`). -/
def State.reset : State where
  mem := []
  v := Vector.replicate 16 0#8
  i := 0#16
  pc := 0x0200#16
  stack := Vector.replicate 16 0#16
  sp := 0
  dt := 0#8
  st := 0#8
  fb := Vector.replicate 32 (Vector.replicate 64 false)
  key := Vector.replicate 16 false
  es := .running
  events := []
  loadResult := none
  ran := false
  schedule := []
  rnd := none
  draws := 0

end Sys2Proof.Machine
end

