-- ==== Sys2Proof/Machine/Framebuffer.lean ====
section
/-! DEFINITION. The sub-block `bitmap_framebuffer_writer` (43_register_register_nibble.md R140 to R143): pixels, and
XOR-ing sprite bits with the collision flag. -/

namespace Sys2Proof.Machine

/-- `FB[x, y]`, column `x` of row `y` (10_state.md R46). -/
def Framebuffer.pixel (fb : Framebuffer) (x : Fin 64) (y : Fin 32) : Bool := (fb[y.val]'y.isLt)[x.val]'x.isLt

/-- `FB[x, y] <- FB[x, y] ^ 1` (43_register_register_nibble.md R143). -/
def Framebuffer.flip (fb : Framebuffer) (x : Fin 64) (y : Fin 32) : Framebuffer :=
  fb.set y.val ((fb[y.val]'y.isLt).set x.val (!fb.pixel x y) x.isLt) y.isLt

/-- Every pixel 0 (45_zero_operand.md R170). -/
def Framebuffer.clear : Framebuffer := Vector.replicate 32 (Vector.replicate 64 false)

/-- One sprite bit: a 1 inverts its pixel, and is a collision when that pixel was set; a 0 does nothing
(43_register_register_nibble.md R143, R144). The pair is the framebuffer and the collision so far. -/
def plotBit (x : Fin 64) (y : Fin 32) (bit : Bool) (c : Framebuffer × Bool) : Framebuffer × Bool :=
  if bit then (c.1.flip x y, c.2 || c.1.pixel x y) else c

/-- The column of a sprite's pixel: `(V[X] + c) mod 64` (43_register_register_nibble.md R141). -/
def screenColumn (x0 : Byte) (c : Nat) : Fin 64 := ⟨(x0.toNat + c) % 64, Nat.mod_lt _ (by decide)⟩

/-- The row of a sprite's pixel: `(V[Y] + r) mod 32` (43_register_register_nibble.md R141). -/
def screenRow (y0 : Byte) (r : Nat) : Fin 32 := ⟨(y0.toNat + r) % 32, Nat.mod_lt _ (by decide)⟩

/-- Column `c` of a row byte is its bit `7 - c` (43_register_register_nibble.md R142, there marked as general
knowledge). PRESUMED, unsafe (log 2). -/
def spriteBit (b : Byte) (c : Nat) : Bool := b.getLsbD (7 - c)

/-- The first `n` columns of one sprite row, left to right (43_register_register_nibble.md R144). -/
def drawColumns (x0 : Byte) (y : Fin 32) (b : Byte) : Nat → Framebuffer × Bool → Framebuffer × Bool
  | 0, c => c
  | n + 1, c => plotBit (screenColumn x0 n) y (spriteBit b n) (drawColumns x0 y b n c)

/-- The first `n` rows of a sprite whose row `r` is `row r` (43_register_register_nibble.md R144). -/
def drawRows (x0 y0 : Byte) (row : Nat → Byte) : Nat → Framebuffer × Bool → Framebuffer × Bool
  | 0, c => c
  | n + 1, c => drawColumns x0 (screenRow y0 n) (row n) 8 (drawRows x0 y0 row n c)

end Sys2Proof.Machine
end

