-- ==== Sys2Proof/Machine/Memory.lean ====
section
/-! DEFINITION. The sub-block `memory_interface` (20_memory.md): 4096 bytes behind a 12-bit address mask. Memory is the
list of the bytes that differ from their contents after `Reset`, by rising address. -/

namespace Sys2Proof.Machine

/-- The list of cells of `MEM` that differ from `resetByte`. -/
abbrev Memory := List Host.Cell

/-- The default `FONT`: 16 glyphs of 5 bytes (10_state.md R49, there marked as general knowledge). PRESUMED, unsafe
(log 1). -/
def font : Vector Byte 80 := #v[
  0xF0, 0x90, 0x90, 0x90, 0xF0,
  0x20, 0x60, 0x20, 0x20, 0x70,
  0xF0, 0x10, 0xF0, 0x80, 0xF0,
  0xF0, 0x10, 0xF0, 0x10, 0xF0,
  0x90, 0x90, 0xF0, 0x10, 0x10,
  0xF0, 0x80, 0xF0, 0x10, 0xF0,
  0xF0, 0x80, 0xF0, 0x90, 0xF0,
  0xF0, 0x10, 0x20, 0x40, 0x40,
  0xF0, 0x90, 0xF0, 0x90, 0xF0,
  0xF0, 0x90, 0xF0, 0x10, 0xF0,
  0xF0, 0x90, 0xF0, 0x90, 0x90,
  0xE0, 0x90, 0xE0, 0x90, 0xE0,
  0xF0, 0x80, 0x80, 0x80, 0xF0,
  0xE0, 0x90, 0x90, 0x90, 0xE0,
  0xF0, 0x80, 0xF0, 0x80, 0xF0,
  0xF0, 0x80, 0xF0, 0x80, 0x80]

/-- What an address that memory does not list reads as: the contents after `Reset`, the font at 0x000..0x04F and 0
elsewhere (10_state.md R48). -/
def resetByte (a : Nat) : Byte := if h : a < 80 then font[a] else 0#8

/-- The 12-bit mask every address passes through (20_memory.md R63, R64, R65): `addr & 0xFFF`. -/
def maskAddr (addr : Nat) : Nat := addr % 4096

/-- The byte a list of cells holds at an address of 12 bits. -/
def Memory.lookup : Memory → Nat → Byte
  | [], a => resetByte a
  | (k, c) :: t, a => if k = a then c else lookup t a

/-- The list with the cell of address `a` set to `b`, in its place. -/
def Memory.put : Memory → Nat → Byte → Memory
  | [], a, b => [(a, b)]
  | (k, c) :: t, a, b =>
    if a < k then (a, b) :: (k, c) :: t
    else if a = k then (a, b) :: t
    else (k, c) :: put t a b

/-- The list without a cell of address `a`. -/
def Memory.drop : Memory → Nat → Memory
  | [], _ => []
  | (k, c) :: t, a => if k = a then drop t a else (k, c) :: drop t a

/-- `MemRead(addr, 1)` for any non-negative integer (20_memory.md R63). -/
def Memory.read (m : Memory) (addr : Nat) : Byte := m.lookup (maskAddr addr)

/-- `MemWrite(addr, 1, b)` for any non-negative integer (20_memory.md R64). Writing what an unlisted address reads as
removes the cell, so that equal memories are equal lists. -/
def Memory.write (m : Memory) (addr : Nat) (b : Byte) : Memory :=
  if b = resetByte (maskAddr addr) then m.drop (maskAddr addr) else m.put (maskAddr addr) b

/-- The bytes `bs` written from `base` upward (70_reset_and_hazards.md R213). -/
def Memory.writeBytes : Memory → Nat → List Byte → Memory
  | m, _, [] => m
  | m, base, b :: bs => writeBytes (m.write base b) (base + 1) bs

/-- The canonical form: addresses below 4096, strictly rising, no cell that reads as an unlisted one. -/
def Memory.wf : Memory → Bool
  | [] => true
  | (k, c) :: t =>
    decide (k < 4096) && decide (c ≠ resetByte k) && t.all (fun e => decide (k < e.1)) && wf t

end Sys2Proof.Machine
end

