-- ==== Sys2Proof/Machine/Ops.lean ====
section
/-! DEFINITION. The named operations over the state: the primitives of 00_scope.md R17. Every read and write of a
register, of memory, of the stack and of the outputs goes through one of them. -/

namespace Sys2Proof.Machine

/-- What an operation or a meaning answers. -/
abbrev Answer := Host.Outcome State Fault Refusal

/-- `V[x]` (10_state.md R31). -/
def State.reg (s : State) (x : Nibble) : Byte := s.v[x.toNat]'x.isLt

/-- `V[x] <- b` (10_state.md R31). -/
def State.setV (s : State) (x : Nibble) (b : Byte) : State := { s with v := s.v.set x.toNat b x.isLt }

/-- A flag as the 8-bit value written to `V[15]`: 0x00 or 0x01 (10_state.md R35). -/
def flagByte (f : Bool) : Byte := if f then 1#8 else 0#8

/-- `V[15] <- f` (10_state.md R35). -/
def State.setFlag (s : State) (f : Bool) : State := s.setV 15#4 (flagByte f)

/-- The destination, then the flag, so that the flag wins when the destination is `V[15]`
(42_register_register.md R124). -/
def State.setResult (s : State) (x : Nibble) (rf : Byte × Bool) : State := (s.setV x rf.1).setFlag rf.2

/-- `I <- w`. -/
def State.setI (s : State) (w : Word) : State := { s with i := w }

/-- `pc <- w`. -/
def State.setPc (s : State) (w : Word) : State := { s with pc := w }

/-- `DT <- b`. -/
def State.setDt (s : State) (b : Byte) : State := { s with dt := b }

/-- `ST <- b`. -/
def State.setSt (s : State) (b : Byte) : State := { s with st := b }

/-- The whole framebuffer written. -/
def State.setFb (s : State) (fb : Framebuffer) : State := { s with fb := fb }

/-- `KEY[k]` (10_state.md R47). -/
def State.keyAt (s : State) (k : Nibble) : Bool := s.key[k.toNat]'k.isLt

/-- `KEY[k] <- b`. -/
def State.setKey (s : State) (k : Nibble) (b : Bool) : State := { s with key := s.key.set k.toNat b k.isLt }

/-- `ES <- e`. -/
def State.setEs (s : State) (e : EngineState) : State := { s with es := e }

/-- The whole memory written. -/
def State.setMem (s : State) (m : Memory) : State := { s with mem := m }

/-- `MemRead(addr, 1)` (20_memory.md R63). -/
def State.readByte (s : State) (addr : Nat) : Byte := Memory.read s.mem addr

/-- `MemWrite(addr, 1, b)` (20_memory.md R64). -/
def State.writeByte (s : State) (addr : Nat) (b : Byte) : State := s.setMem (Memory.write s.mem addr b)

/-- `FB[x, y]`. -/
def State.pixelAt (s : State) (x : Fin 64) (y : Fin 32) : Bool := Framebuffer.pixel s.fb x y

/-- `Fetch16(addr)`: high byte first, each byte's address masked on its own (20_memory.md R66). -/
def State.fetch16 (s : State) (addr : Nat) : Word := wordOfBytes (s.readByte addr) (s.readByte (addr + 1))

/-- `pc <- (PC + 2) mod 65536`: the advance of every `Cycle` (60_exceptions.md R185), and the whole of a taken skip
(00_scope.md R20). -/
def State.advancePc (s : State) : State := s.setPc (s.pc + 2#16)

/-- A conditional skip of the next two bytes (00_scope.md R20). -/
def State.skipIf (s : State) (c : Bool) : State := if c then s.advancePc else s

/-- TAKING AN EXCEPTION: `raise Halt(reason)`, the fatal-error action (60_exceptions.md R190). The engine state records
the reason and nothing else is written; `PC` keeps the advance already made. There is no saved-state register, no
handler and no return from it (R180, R196): only `Reset` leaves `Halted`. -/
def State.raiseHalt (s : State) (reason : HaltReason) : State := s.setEs (.halted reason)

/-- `emit e` (00_scope.md R17): appends to the list this `Cycle` returns. -/
def State.emit (s : State) (e : Event) : State := { s with events := s.events ++ [e] }

/-- The non-fatal error `UnknownOpcode`: reported as an event and nothing else (60_exceptions.md R188). -/
def State.reportUnknown (s : State) (addr word : Word) : State := s.emit (.unknownOpcode addr word)

/-- Push of `PC` and jump to `target`, or `StackOverflow` when 16 entries are in use
(10_state.md R42, 40_address_only.md R102). -/
def State.callTo (s : State) (target : Word) : State :=
  if h : s.sp.val < 16 then
    { s with stack := s.stack.set s.sp.val s.pc h, sp := ⟨s.sp.val + 1, by omega⟩, pc := target }
  else s.raiseHalt .stackOverflow

/-- Pop of `PC`, or `StackUnderflow` when no entry is in use; the slot keeps its value
(10_state.md R42, 45_zero_operand.md R171). -/
def State.returnFromCall (s : State) : State :=
  if h : 0 < s.sp.val then
    { s with sp := ⟨s.sp.val - 1, by omega⟩, pc := s.stack[s.sp.val - 1]'(by omega) }
  else s.raiseHalt .stackUnderflow

/-- The random byte of this `Cycle` and the state once it is drawn: the argument the schedule gave, else a fresh free
value (00_scope.md R13; logs 3, 4). -/
def State.draw (s : State) : Byte × State :=
  match s.rnd with
  | some b => (b, s)
  | none => (Config.rndByte s.draws, { s with draws := s.draws + 1 })

/-- `V[0]` .. `V[n-1]` written to memory from `base` upward (44_single_register.md R159). -/
def State.storeRegs (s : State) (base : Nat) : Nat → Memory
  | 0 => s.mem
  | n + 1 => Memory.write (s.storeRegs base n) (base + n) (s.reg (BitVec.ofNat 4 n))

/-- `V[0]` .. `V[n-1]` read from memory from `base` upward (44_single_register.md R160). -/
def State.loadRegs (s : State) (base : Nat) : Nat → State
  | 0 => s
  | n + 1 => (s.loadRegs base n).setV (BitVec.ofNat 4 n) (s.readByte (base + n))

/-- A new operation begins: the outputs of the one before are gone (00_scope.md R11, "not stored in the state"). -/
def State.clearOutputs (s : State) : State := { s with events := [], loadResult := none }

/-- The operations the host is still going to invoke (00_scope.md R7; log 5). -/
def State.setSchedule (s : State) (ops : List HostOp) : State := { s with schedule := ops }

/-- A word stored at an address, high byte first (20_memory.md R67). -/
def State.placeWord (s : State) (addr : Nat) (w : Word) : State :=
  (s.writeByte addr (highByte w)).writeByte (addr + 1) (lowByte w)

/-- `s` with an instruction, given as spec/opcode_table.json numbers its bits, where the next `Cycle` fetches, the engine
running and no other operation of the host before that `Cycle`. -/
def State.placeInstruction (s : State) (nbits w : Nat) : State :=
  ((s.placeWord s.pc.toNat (tableWord nbits w)).setEs .running).setSchedule []

end Sys2Proof.Machine
end

