-- ==== Sys2Proof/Machine/Operands.lean ====
section
/-! DEFINITION. The operand forms: immediates, addresses formed from `I`, key numbers, digits. -/

namespace Sys2Proof.Machine

/-- `zext_16(NNN)` (30_encoding.md R82). -/
def zextAddr (nnn : Addr) : Word := nnn.setWidth 16

/-- `zext_16` of a byte (00_scope.md R16). -/
def zextByte (b : Byte) : Word := b.setWidth 16

/-- `zext_8(k)` of a key number (60_exceptions.md R199). -/
def zextKey (k : Nibble) : Byte := k.setWidth 8

/-- The address of the `k`-th byte of an access based at `I`, before the mask of the access (20_memory.md R65). -/
def State.dataAddr (s : State) (k : Nat) : Nat := s.i.toNat + k

/-- The key a register selects: `V[X] & 0xF` (44_single_register.md R150). -/
def keyIndex (b : Byte) : Nibble := b.extractLsb' 0 4

/-- The target of `BNNN`: `(NNN + V[0]) mod 65536` (40_address_only.md R104). -/
def State.indexedTarget (s : State) (nnn : Addr) : Word := zextAddr nnn + zextByte (s.reg 0#4)

/-- `font_base + 5 * V[X]` with `font_base` 0x000; the whole byte is used (44_single_register.md R157). -/
def glyphAddr (b : Byte) : Word := 5#16 * zextByte b

/-- `v div 100` (44_single_register.md R158). -/
def hundreds (v : Byte) : Byte := BitVec.ofNat 8 (v.toNat / 100)

/-- `(v div 10) mod 10` (44_single_register.md R158). -/
def tens (v : Byte) : Byte := BitVec.ofNat 8 (v.toNat / 10 % 10)

/-- `v mod 10` (44_single_register.md R158). -/
def ones (v : Byte) : Byte := BitVec.ofNat 8 (v.toNat % 10)

/-- The byte of sprite row `r`: `MemRead(I + r, 1)` (43_register_register_nibble.md R140). -/
def State.spriteRow (s : State) (r : Nat) : Byte := s.readByte (s.dataAddr r)

end Sys2Proof.Machine
end

