-- ==== Sys2Proof/Machine/AddressOnly.lean ====
section
/-! DEFINITION. Address-only instructions (40_address_only.md). Every meaning is the execute phase of a `Cycle`: `PC` is
already the instruction's address plus 2 (60_exceptions.md R185). -/

namespace Sys2Proof.Machine

/-- `0NNN`, no-op (40_address_only.md R100). -/
def execSys (_nnn : Addr) (s : State) : Answer := .next s

/-- `1NNN` (40_address_only.md R101). -/
def execJp (nnn : Addr) (s : State) : Answer := .next (s.setPc (zextAddr nnn))

/-- `2NNN` (40_address_only.md R102). -/
def execCall (nnn : Addr) (s : State) : Answer := .next (s.callTo (zextAddr nnn))

/-- `ANNN` (40_address_only.md R103). -/
def execLdI (nnn : Addr) (s : State) : Answer := .next (s.setI (zextAddr nnn))

/-- `BNNN` (40_address_only.md R104). -/
def execJpV0 (nnn : Addr) (s : State) : Answer := .next (s.setPc (s.indexedTarget nnn))

end Sys2Proof.Machine
end

