-- ==== Sys2Proof/Machine/Flags.lean ====
section
/-! DEFINITION. The sub-block `alu_with_flags` (42_register_register.md R120): result and flag of each function, over
exact integers narrowed at the end. `a` is `V[X]`, `b` is `V[Y]` or `NN`. -/

namespace Sys2Proof.Machine

/-- `ADD`: flag 1 if `a + b > 255` (42_register_register.md R120, R130). -/
def aluAdd (a b : Byte) : Byte × Bool :=
  (BitVec.ofNat 8 (a.toNat + b.toNat), decide (a.toNat + b.toNat > 255))

/-- `SUB`: flag 0 if `a < b`, the borrow (42_register_register.md R120, R122, R131). -/
def aluSub (a b : Byte) : Byte × Bool := (a - b, !decide (a.toNat < b.toNat))

/-- `SUBN`: flag 0 if `b < a` (42_register_register.md R120, R133). -/
def aluSubn (a b : Byte) : Byte × Bool := (b - a, !decide (b.toNat < a.toNat))

/-- `SHR`: flag is bit 0 of the operand (42_register_register.md R120, R132). -/
def aluShr (a : Byte) : Byte × Bool := (a >>> 1, a.getLsbD 0)

/-- `SHL`: flag is bit 7 of the operand (42_register_register.md R120, R134). -/
def aluShl (a : Byte) : Byte × Bool := (a <<< 1, a.getLsbD 7)

/-- `ADDI`: wraps, no flag (42_register_register.md R120, 41_register_immediate.md R113). -/
def aluAddi (a b : Byte) : Byte := BitVec.ofNat 8 (a.toNat + b.toNat)

/-- `MOV` (42_register_register.md R120). -/
def aluMov (b : Byte) : Byte := b

/-- `OR` (42_register_register.md R120). -/
def aluOr (a b : Byte) : Byte := a ||| b

/-- `AND` (42_register_register.md R120). -/
def aluAnd (a b : Byte) : Byte := a &&& b

/-- `XOR` (42_register_register.md R120). -/
def aluXor (a b : Byte) : Byte := a ^^^ b

/-- `EQ`, the skip condition (42_register_register.md R120). -/
def aluEq (a b : Byte) : Bool := decide (a = b)

end Sys2Proof.Machine
end

