-- ==== Sys2Proof/Machine/RegisterImmediate.lean ====
section
/-! DEFINITION. Register+immediate instructions (41_register_immediate.md). -/

namespace Sys2Proof.Machine

/-- `3XNN` (41_register_immediate.md R110). -/
def execSeImm (x : Nibble) (nn : Byte) (s : State) : Answer := .next (s.skipIf (aluEq (s.reg x) nn))

/-- `4XNN` (41_register_immediate.md R111). -/
def execSneImm (x : Nibble) (nn : Byte) (s : State) : Answer := .next (s.skipIf (!aluEq (s.reg x) nn))

/-- `6XNN` (41_register_immediate.md R112). -/
def execLdImm (x : Nibble) (nn : Byte) (s : State) : Answer := .next (s.setV x nn)

/-- `7XNN` (41_register_immediate.md R113). -/
def execAddImm (x : Nibble) (nn : Byte) (s : State) : Answer := .next (s.setV x (aluAddi (s.reg x) nn))

/-- `CXNN` (41_register_immediate.md R114). -/
def execRnd (x : Nibble) (nn : Byte) (s : State) : Answer := .next (s.draw.2.setV x (s.draw.1 &&& nn))

end Sys2Proof.Machine
end

