-- ==== Sys2Proof/Machine/RegisterRegister.lean ====
section
/-! DEFINITION. Register+register instructions (42_register_register.md). Operands are read before the destination and
the flag are written (R124). -/

namespace Sys2Proof.Machine

/-- `5XY0` (42_register_register.md R125). -/
def execSeReg (x y : Nibble) (s : State) : Answer := .next (s.skipIf (aluEq (s.reg x) (s.reg y)))

/-- `9XY0` (42_register_register.md R135). -/
def execSneReg (x y : Nibble) (s : State) : Answer := .next (s.skipIf (!aluEq (s.reg x) (s.reg y)))

/-- `8XY0` (42_register_register.md R126). -/
def execLdReg (x y : Nibble) (s : State) : Answer := .next (s.setV x (aluMov (s.reg y)))

/-- `8XY1` (42_register_register.md R127). -/
def execOr (x y : Nibble) (s : State) : Answer := .next (s.setV x (aluOr (s.reg x) (s.reg y)))

/-- `8XY2` (42_register_register.md R128). -/
def execAnd (x y : Nibble) (s : State) : Answer := .next (s.setV x (aluAnd (s.reg x) (s.reg y)))

/-- `8XY3` (42_register_register.md R129). -/
def execXor (x y : Nibble) (s : State) : Answer := .next (s.setV x (aluXor (s.reg x) (s.reg y)))

/-- `8XY4` (42_register_register.md R130). -/
def execAddReg (x y : Nibble) (s : State) : Answer := .next (s.setResult x (aluAdd (s.reg x) (s.reg y)))

/-- `8XY5` (42_register_register.md R131). -/
def execSub (x y : Nibble) (s : State) : Answer := .next (s.setResult x (aluSub (s.reg x) (s.reg y)))

/-- `8XY6`: `Y` is ignored (42_register_register.md R132). -/
def execShr (x _y : Nibble) (s : State) : Answer := .next (s.setResult x (aluShr (s.reg x)))

/-- `8XY7` (42_register_register.md R133). -/
def execSubn (x y : Nibble) (s : State) : Answer := .next (s.setResult x (aluSubn (s.reg x) (s.reg y)))

/-- `8XYE`: `Y` is ignored (42_register_register.md R134). -/
def execShl (x _y : Nibble) (s : State) : Answer := .next (s.setResult x (aluShl (s.reg x)))

end Sys2Proof.Machine
end

