-- ==== Sys2Proof/Machine/RegisterRegisterNibble.lean ====
section
/-! DEFINITION. The register+register+nibble instruction (43_register_register_nibble.md). -/

namespace Sys2Proof.Machine

/-- The framebuffer and the collision after the sprite of `DXYN` (43_register_register_nibble.md R144). -/
def State.drawSprite (s : State) (x y n : Nibble) : Framebuffer × Bool :=
  drawRows (s.reg x) (s.reg y) s.spriteRow n.toNat (s.fb, false)

/-- `DXYN`: the pixels, then `V[15]`, then `FrameDirty` (43_register_register_nibble.md R144). -/
def execDrw (x y n : Nibble) (s : State) : Answer :=
  .next (((s.setFb (s.drawSprite x y n).1).setFlag (s.drawSprite x y n).2).emit .frameDirty)

end Sys2Proof.Machine
end

