-- ==== Sys2Proof/Machine/SingleRegister.lean ====
section
/-! DEFINITION. Single-register instructions (44_single_register.md). -/

namespace Sys2Proof.Machine

/-- `EX9E` (44_single_register.md R150). -/
def execSkp (x : Nibble) (s : State) : Answer := .next (s.skipIf (s.keyAt (keyIndex (s.reg x))))

/-- `EXA1` (44_single_register.md R151). -/
def execSknp (x : Nibble) (s : State) : Answer := .next (s.skipIf (!s.keyAt (keyIndex (s.reg x))))

/-- `FX07` (44_single_register.md R152). -/
def execLdVxDt (x : Nibble) (s : State) : Answer := .next (s.setV x s.dt)

/-- `FX0A`: this `Cycle` only starts the wait; the `KeyDown` that completes it is in Machine/HostOps.lean
(44_single_register.md R153). -/
def execLdVxK (x : Nibble) (s : State) : Answer := .next (s.setEs (.awaitingKey x))

/-- `FX15` (44_single_register.md R154). -/
def execLdDtVx (x : Nibble) (s : State) : Answer := .next (s.setDt (s.reg x))

/-- `FX18` (44_single_register.md R155). -/
def execLdStVx (x : Nibble) (s : State) : Answer := .next (s.setSt (s.reg x))

/-- `FX1E`, modulo 65536, no flag (44_single_register.md R156). -/
def execAddI (x : Nibble) (s : State) : Answer := .next (s.setI (s.i + zextByte (s.reg x)))

/-- `FX29` (44_single_register.md R157). -/
def execLdF (x : Nibble) (s : State) : Answer := .next (s.setI (glyphAddr (s.reg x)))

/-- `FX33`: hundreds, tens, ones at `I`, `I+1`, `I+2` (44_single_register.md R158). -/
def execLdB (x : Nibble) (s : State) : Answer :=
  .next (((s.writeByte (s.dataAddr 0) (hundreds (s.reg x))).writeByte (s.dataAddr 1) (tens (s.reg x))).writeByte
    (s.dataAddr 2) (ones (s.reg x)))

/-- `FX55`: `X + 1` registers (44_single_register.md R159). -/
def execLdMemVx (x : Nibble) (s : State) : Answer :=
  .next (s.setMem (s.storeRegs (s.dataAddr 0) (x.toNat + 1)))

/-- `FX65`: `X + 1` registers (44_single_register.md R160). -/
def execLdVxMem (x : Nibble) (s : State) : Answer := .next (s.loadRegs (s.dataAddr 0) (x.toNat + 1))

end Sys2Proof.Machine
end

