-- ==== Sys2Proof/Machine/ZeroOperand.lean ====
section
/-! DEFINITION. Zero-operand instructions (45_zero_operand.md). -/

namespace Sys2Proof.Machine

/-- `00E0` (45_zero_operand.md R170). -/
def execCls (s : State) : Answer := .next ((s.setFb Framebuffer.clear).emit .frameDirty)

/-- `00EE` (45_zero_operand.md R171). -/
def execRet (s : State) : Answer := .next s.returnFromCall

end Sys2Proof.Machine
end

