-- ==== Sys2Proof/Machine/HostOps.lean ====
section
/-! DEFINITION. The operations by which the host reaches the core between cycles (60_exceptions.md,
70_reset_and_hazards.md), and what the host may read (00_scope.md R9). -/

namespace Sys2Proof.Machine

/-- One timer, decremented and floored at 0 (60_exceptions.md R197). -/
def decTimer (t : Byte) : Byte := if 0 < t.toNat then t - 1#8 else t

/-- `TimerTick`, in every engine state (60_exceptions.md R197, R198). -/
def State.timerTick (s : State) : State := (s.setDt (decTimer s.dt)).setSt (decTimer s.st)

/-- `KeyDown(k)`: sets the key and completes a pending wait (60_exceptions.md R199). -/
def State.keyDown (s : State) (k : Nibble) : State :=
  match s.es with
  | .awaitingKey x => (((s.setKey k true).setV x (zextKey k)).setEs .running)
  | .running => s.setKey k true
  | .halted _ => s.setKey k true

/-- `KeyUp(k)`, in every engine state (60_exceptions.md R200). -/
def State.keyUp (s : State) (k : Nibble) : State := s.setKey k false

/-- `Stop`: the first reason is kept (60_exceptions.md R193). -/
def State.stop (s : State) : State :=
  match s.es with
  | .halted _ => s
  | .running => s.setEs (.halted .externalStop)
  | .awaitingKey _ => s.setEs (.halted .externalStop)

/-- `Reset(FONT)`, in every engine state (70_reset_and_hazards.md R210). The operations still to come and the count of
free draws are the host's, not the block's, and stay (logs 4, 5). -/
def State.resetWith (s : State) (f : Vector Byte 80) : State :=
  { State.reset with
    mem := Memory.writeBytes State.reset.mem 0 f.toList
    schedule := s.schedule
    draws := s.draws }

/-- The largest program image: 4096 − 0x200 bytes (70_reset_and_hazards.md R213). -/
def maxProgram : Nat := 3584

/-- The address a program image is copied to (70_reset_and_hazards.md R213). -/
def programBase : Nat := 0x200

/-- `LoadProgram(bytes)` where it is defined, directly after `Reset` (70_reset_and_hazards.md R213): rejected whole as
`RomTooLarge`, or copied verbatim. -/
def State.copyProgram (s : State) (bytes : List Byte) : State :=
  if bytes.length > maxProgram then { s with loadResult := some .romTooLarge }
  else { (s.setMem (Memory.writeBytes s.mem programBase bytes)) with loadResult := some .ok }

/-- `LoadProgram(bytes)`: refused once a `Cycle` has run (70_reset_and_hazards.md R214). -/
def loadProgram (bytes : List Byte) (s : State) : Answer :=
  if s.ran then .refused .loadProgramAfterCycle else .next (s.copyProgram bytes)

/-- `sound_active` (00_scope.md R9). -/
def State.soundActive (s : State) : Bool := decide (0 < s.st.toNat)

/-- What the host may read between operations: `FB`, `ST`, `ES` with its reason (00_scope.md R9). -/
def State.hostView (s : State) : Framebuffer × Byte × EngineState := (s.fb, s.st, s.es)

end Sys2Proof.Machine
end

