-- ==== Sys2Proof/Machine/Engine.lean ====
section
/-! DEFINITION. The sequencer: the `Cycle` in the three engine states (60_exceptions.md R185 to R187), and the operations
in the order in which the host invokes them (00_scope.md R7, R8). -/

namespace Sys2Proof.Machine

/-- A `Cycle` begins in `Running`: it has returned no event yet, its random byte is the argument `r` (a free value where
there is none), and `PC` is advanced (60_exceptions.md R185). -/
def State.beginCycle (s : State) (r : Option Byte) : State :=
  { s.clearOutputs.advancePc with ran := true, rnd := r }

/-- `Cycle(rnd)` in state `Running`: fetch, decode, advance, execute (60_exceptions.md R185, R188). -/
def runCycle (r : Option Byte) (s : State) : Answer :=
  match decodeWord (s.fetch16 s.pc.toNat) with
  | .op i => exec i (s.beginCycle r)
  | .unknown => .next ((s.beginCycle r).reportUnknown s.pc (s.fetch16 s.pc.toNat))

/-- `Cycle(rnd)` in every engine state: in `AwaitingKey` and `Halted` it changes no state and returns no event
(60_exceptions.md R186, R187). -/
def cycle (r : Option Byte) (s : State) : Answer :=
  match s.es with
  | .running => runCycle r s
  | .awaitingKey _ => .next s.clearOutputs
  | .halted _ => .next s.clearOutputs

/-- One operation of the host (00_scope.md R8). -/
def operate (op : HostOp) (s : State) : Answer :=
  match op with
  | .cycle b => cycle (some b) s
  | .timerTick => .next s.clearOutputs.timerTick
  | .keyDown k => .next (s.clearOutputs.keyDown k)
  | .keyUp k => .next (s.clearOutputs.keyUp k)
  | .stop => .next s.clearOutputs.stop
  | .reset f => .next (s.resetWith f)
  | .loadProgram bytes => loadProgram bytes s.clearOutputs

/-- The `Cycle` that runs when the host has scheduled nothing else: its random byte is a free value, and a halted engine
has no `Cycle` step at all (60_exceptions.md R187; logs 3, 8). -/
def freeCycle (s : State) : Answer :=
  match s.es with
  | .halted reason => .fault (.halted reason)
  | .running => cycle none s
  | .awaitingKey _ => cycle none s

/-- The next operation in time: the oldest scheduled one, else a `Cycle` (00_scope.md R7; log 5). -/
def nextOperation (s : State) : Answer :=
  match s.schedule with
  | [] => freeCycle s
  | op :: rest => operate op (s.setSchedule rest)

end Sys2Proof.Machine
end

