-- ==== Sys2Proof/Machine/Step.lean ====
section
/-! DEFINITION. One step of the machine: the next operation in time (Machine/Engine.lean). -/

namespace Sys2Proof.Machine

/-- One atomic operation (00_scope.md R7): a `Cycle`, unless the host has scheduled another operation before it. -/
def step (s : State) : Host.Outcome State Fault Refusal := nextOperation s

/-- `s` with the instruction of bits `w` (numbered as spec/opcode_table.json numbers them, the bits from `nbits` up 0)
stored where `step` fetches its next instruction, so that the next step runs it. -/
def State.withFetchWord (s : State) (nbits w : Nat) : State := s.placeInstruction nbits w

end Sys2Proof.Machine
end

