-- ==== Sys2Proof/Safety.lean ====
section
/-! DEFINITION. The terms claims are stated in: what two states agree on, the invariant of the machine, and what counts
as a safe step. -/

namespace Sys2Proof.Machine

/-- The parts of the state a frame names: the spec's eleven (10_state.md R30) and the model's own six. -/
inductive StatePart where
  | mem | v | i | pc | stack | sp | dt | st | fb | key | es
  | events | loadResult | ran | schedule | rnd | draws
  deriving DecidableEq, Repr

/-- The two states agree on a part; memory, the registers, the framebuffer and the keys through the model's reads. -/
def SamePart (p : StatePart) (s t : State) : Prop :=
  match p with
  | .mem => ∀ a : Nat, t.readByte a = s.readByte a
  | .v => ∀ r : Nibble, t.reg r = s.reg r
  | .i => t.i = s.i
  | .pc => t.pc = s.pc
  | .stack => t.stack = s.stack
  | .sp => t.sp = s.sp
  | .dt => t.dt = s.dt
  | .st => t.st = s.st
  | .fb => ∀ (x : Fin 64) (y : Fin 32), t.pixelAt x y = s.pixelAt x y
  | .key => ∀ k : Nibble, t.keyAt k = s.keyAt k
  | .es => t.es = s.es
  | .events => t.events = s.events
  | .loadResult => t.loadResult = s.loadResult
  | .ran => t.ran = s.ran
  | .schedule => t.schedule = s.schedule
  | .rnd => t.rnd = s.rnd
  | .draws => t.draws = s.draws

/-- The frame of a transition from `s` to `t`: every part not listed is unchanged. -/
def SameExcept (changed : List StatePart) (s t : State) : Prop :=
  ∀ p : StatePart, p ∉ changed → SamePart p s t

/-- The parts every `Cycle` in `Running` may change before the instruction executes: the advanced `PC`, the outputs, and
the model's record that a `Cycle` has run and what its random argument is. -/
def cycleParts : List StatePart := [.pc, .events, .loadResult, .ran, .rnd]

/-- The parts every operation may change: the outputs it returns. -/
def outputParts : List StatePart := [.events, .loadResult]

/-- The engine waits for a key. -/
def State.Waiting (s : State) : Prop := ∃ x, s.es = .awaitingKey x

/-- The engine is halted by a stack error. -/
def State.Crashed (s : State) : Prop := s.es = .halted .stackOverflow ∨ s.es = .halted .stackUnderflow

/-- The invariant of the machine, kept by every step (Obligations.EveryStepKeepsTheInvariant). -/
structure State.Inv (s : State) : Prop where
  /-- Memory is in its canonical form. -/
  memory : Memory.wf s.mem = true
  /-- An operation returns at most one event (00_scope.md R11). -/
  oneEvent : s.events.length ≤ 1
  /-- Only a `Cycle` that leaves the engine `Running` returns an event (00_scope.md R11, 60_exceptions.md R190). -/
  eventsRunning : s.events ≠ [] → s.es = .running ∧ s.ran = true
  /-- `LoadProgram` answers only before the first `Cycle` (70_reset_and_hazards.md R214). -/
  loadFresh : s.loadResult ≠ none → s.ran = false
  /-- A key wait and a stack error are entered by a `Cycle` (60_exceptions.md R184). -/
  stoppedRan : s.Waiting ∨ s.Crashed → s.ran = true
  /-- Before the first `Cycle` only `MEM`, `KEY` and `ES` may differ from their reset values
  (70_reset_and_hazards.md R211, R214, R216). -/
  fresh : s.ran = false → s.pc = 0x0200#16 ∧ s.i = 0#16 ∧ s.sp = 0 ∧ s.dt = 0#8 ∧ s.st = 0#8 ∧
    (∀ (k : Nat) (hk : k < 16), s.stack[k] = 0#16) ∧ (∀ r, s.reg r = 0#8) ∧ (∀ x y, s.pixelAt x y = false)

/-- A safe step: it answers a next state, the engine is not halted by a stack error, and no unknown word was met
(60_exceptions.md R188 allows the stricter reading; 93_implementation_defined.md U7, U12). -/
def SafeStep (s : State) : Prop :=
  ∃ t, step s = .next t ∧ ¬ t.Crashed ∧ ∀ addr word, Event.unknownOpcode addr word ∉ t.events

/-- The sprite pixel at column `px`, row `py` is a 1 for the sprite of `n` rows at `(x0, y0)` whose row `r` is the byte
at `I + r` (43_register_register_nibble.md R141, R142). -/
def State.spriteCovers (s : State) (x0 y0 : Byte) (n : Nibble) (px : Fin 64) (py : Fin 32) : Prop :=
  ∃ r c : Nat, r < n.toNat ∧ c < 8 ∧ px.val = (x0.toNat + c) % 64 ∧ py.val = (y0.toNat + r) % 32 ∧
    (s.readByte (s.i.toNat + r)).getLsbD (7 - c) = true

/-- The word fetched at `PC` in `t` is made of the bytes stored from `s`, `stored k` at `I + k` for `k < len`, and of the old
byte where none is stored: byte `j` of the word is its high byte for `j = 0`, its low byte for `j = 1` (20_memory.md R75,
R67; the addresses masked to 12 bits, R65). -/
def FetchesTheStore (s t : State) (len : Nat) (stored : Nat → Byte) : Prop :=
  ∀ j : Nat, j < 2 →
    (∀ k : Nat, k < len → s.dataAddr k % 4096 = (s.pc.toNat + 2 + j) % 4096 →
      (t.fetch16 t.pc.toNat).extractLsb' (8 - 8 * j) 8 = stored k) ∧
    ((∀ k : Nat, k < len → s.dataAddr k % 4096 ≠ (s.pc.toNat + 2 + j) % 4096) →
      (t.fetch16 t.pc.toNat).extractLsb' (8 - 8 * j) 8 = s.readByte (s.pc.toNat + 2 + j))

/-- The rows of the table of 60_exceptions.md R184 for a `Cycle`: the engine state after it. -/
def State.esAfterCycle (s : State) : EngineState :=
  match s.es with
  | .halted r => .halted r
  | .awaitingKey x => .awaitingKey x
  | .running =>
    match decodeWord (s.fetch16 s.pc.toNat) with
    | .op (.ldVxK x) => .awaitingKey x
    | .op (.call _) => if s.sp.val = 16 then .halted .stackOverflow else .running
    | .op .ret => if s.sp.val = 0 then .halted .stackUnderflow else .running
    | _ => .running

/-- The table of 60_exceptions.md R184: the engine state after an operation of the host. -/
def State.esAfter (s : State) (op : HostOp) : EngineState :=
  match op with
  | .reset _ => .running
  | .cycle _ => s.esAfterCycle
  | .keyDown _ =>
    match s.es with
    | .awaitingKey _ => .running
    | .running => .running
    | .halted r => .halted r
  | .stop =>
    match s.es with
    | .halted r => .halted r
    | .running => .halted .externalStop
    | .awaitingKey _ => .halted .externalStop
  | .timerTick => s.es
  | .keyUp _ => s.es
  | .loadProgram _ => s.es

end Sys2Proof.Machine
end

