-- ==== Sys2Proof/Certificates/Slice0/Obligations.lean ====
section
/-! DEFINITION. The statements for the provers, from the numbered rules of spec/. Where a statement rests on a decision or
an inference the spec marks as its own, its docstring names it. In every statement about `exec`, `PC` is the advanced
`PC` of the execute phase (60_exceptions.md R185). -/

open Sys2Proof Sys2Proof.Machine

/-! ## Decoding and encoding -/

/-- 30_encoding.md R97 and R89: the decoder reads back every field of every well-formed instruction. -/
def Obligations.DecodeReadsBackEncode : Prop :=
  ∀ i : Instr, i.wellFormed = true → decodeWord (encode i) = .op i

/-- 30_encoding.md R89, R97: a word that decodes is the word of the instruction it decodes to, and that instruction is
well formed; so each word has one meaning and no bit is dropped. -/
def Obligations.EncodeReadsBackDecode : Prop :=
  ∀ (w : Word) (i : Instr), decodeWord w = .op i → encode i = w ∧ i.wellFormed = true

/-- 30_encoding.md R90, R97: words written out from the table decode to the instruction they stand for. -/
def Obligations.SampleWordsDecode : Prop :=
  decodeWord 0x8014#16 = .op (.addReg 0 1) ∧ decodeWord 0x6005#16 = .op (.ldImm 0 5) ∧
  decodeWord 0x00EE#16 = .op .ret ∧ decodeWord 0x00E1#16 = .op (.sys 0x0E1) ∧
  decodeWord 0xD125#16 = .op (.drw 1 2 5) ∧ decodeWord 0xF365#16 = .op (.ldVxMem 3) ∧
  decodeWord 0x220C#16 = .op (.call 0x20C)

/-- 30_encoding.md R84: the leading nibble selects a family; ten of them select one operation with no further test. -/
def Obligations.LeadingNibbleSelectsOperation : Prop :=
  ∀ w : Word,
    let x := w.extractLsb' 8 4
    let y := w.extractLsb' 4 4
    let n := w.extractLsb' 0 4
    let nn := w.extractLsb' 0 8
    let nnn := w.extractLsb' 0 12
    (w.extractLsb' 12 4 = 0x1#4 → decodeWord w = .op (.jp nnn)) ∧
    (w.extractLsb' 12 4 = 0x2#4 → decodeWord w = .op (.call nnn)) ∧
    (w.extractLsb' 12 4 = 0xA#4 → decodeWord w = .op (.ldI nnn)) ∧
    (w.extractLsb' 12 4 = 0xB#4 → decodeWord w = .op (.jpV0 nnn)) ∧
    (w.extractLsb' 12 4 = 0x3#4 → decodeWord w = .op (.seImm x nn)) ∧
    (w.extractLsb' 12 4 = 0x4#4 → decodeWord w = .op (.sneImm x nn)) ∧
    (w.extractLsb' 12 4 = 0x6#4 → decodeWord w = .op (.ldImm x nn)) ∧
    (w.extractLsb' 12 4 = 0x7#4 → decodeWord w = .op (.addImm x nn)) ∧
    (w.extractLsb' 12 4 = 0xC#4 → decodeWord w = .op (.rnd x nn)) ∧
    (w.extractLsb' 12 4 = 0xD#4 → decodeWord w = .op (.drw x y n)) ∧
    (∀ i, w.extractLsb' 12 4 = 0x5#4 → decodeWord w = .op i → i = .seReg x y) ∧
    (∀ i, w.extractLsb' 12 4 = 0x9#4 → decodeWord w = .op i → i = .sneReg x y) ∧
    (∀ i, w.extractLsb' 12 4 = 0x8#4 → decodeWord w = .op i →
      i ∈ [.ldReg x y, .orReg x y, .andReg x y, .xorReg x y, .addReg x y, .sub x y, .shr x y, .subn x y, .shl x y])

/-- 30_encoding.md R86: the second-level dispatch of leading nibble 8, nine operations and seven unknown nibbles. -/
def Obligations.TrailingNibbleSelectsAluOperation : Prop :=
  ∀ w : Word, w.extractLsb' 12 4 = 0x8#4 →
    let x := w.extractLsb' 8 4
    let y := w.extractLsb' 4 4
    let n := w.extractLsb' 0 4
    (n = 0x0#4 → decodeWord w = .op (.ldReg x y)) ∧ (n = 0x1#4 → decodeWord w = .op (.orReg x y)) ∧
    (n = 0x2#4 → decodeWord w = .op (.andReg x y)) ∧ (n = 0x3#4 → decodeWord w = .op (.xorReg x y)) ∧
    (n = 0x4#4 → decodeWord w = .op (.addReg x y)) ∧ (n = 0x5#4 → decodeWord w = .op (.sub x y)) ∧
    (n = 0x6#4 → decodeWord w = .op (.shr x y)) ∧ (n = 0x7#4 → decodeWord w = .op (.subn x y)) ∧
    (n = 0xE#4 → decodeWord w = .op (.shl x y)) ∧
    (n ∈ [0x8#4, 0x9#4, 0xA#4, 0xB#4, 0xC#4, 0xD#4, 0xF#4] → decodeWord w = .unknown)

/-- 30_encoding.md R88: leading nibbles E and F dispatch on the trailing byte, `X` free. -/
def Obligations.TrailingByteSelectsOperation : Prop :=
  ∀ w : Word,
    let x := w.extractLsb' 8 4
    let nn := w.extractLsb' 0 8
    (w.extractLsb' 12 4 = 0xE#4 → decodeWord w =
      if nn = 0x9E#8 then .op (.skp x) else if nn = 0xA1#8 then .op (.sknp x) else .unknown) ∧
    (w.extractLsb' 12 4 = 0xF#4 → decodeWord w =
      if nn = 0x07#8 then .op (.ldVxDt x) else if nn = 0x0A#8 then .op (.ldVxK x)
      else if nn = 0x15#8 then .op (.ldDtVx x) else if nn = 0x18#8 then .op (.ldStVx x)
      else if nn = 0x1E#8 then .op (.addI x) else if nn = 0x29#8 then .op (.ldF x)
      else if nn = 0x33#8 then .op (.ldB x) else if nn = 0x55#8 then .op (.ldMemVx x)
      else if nn = 0x65#8 then .op (.ldVxMem x) else .unknown)

/-- 30_encoding.md R91 (there derived) with R85 and R87 (the spec's decisions D6 and D7): exactly these words are
unknown; no word of leading nibble 0 is. -/
def Obligations.UnknownWordsAreExactlyThese : Prop :=
  ∀ w : Word,
    let l := w.extractLsb' 12 4
    let n := w.extractLsb' 0 4
    let nn := w.extractLsb' 0 8
    decodeWord w = .unknown ↔
      ((l = 0x5#4 ∨ l = 0x9#4) ∧ n ≠ 0x0#4) ∨
      (l = 0x8#4 ∧ n ∈ [0x8#4, 0x9#4, 0xA#4, 0xB#4, 0xC#4, 0xD#4, 0xF#4]) ∨
      (l = 0xE#4 ∧ nn ∉ [0x9E#8, 0xA1#8]) ∨
      (l = 0xF#4 ∧ nn ∉ [0x07#8, 0x0A#8, 0x15#8, 0x18#8, 0x1E#8, 0x29#8, 0x33#8, 0x55#8, 0x65#8])

/-! ## The step -/

/-- 60_exceptions.md R185, 00_scope.md R7, R8: a step performs the operation the host scheduled next, whichever of the seven
it is, and is a `Cycle` when none is scheduled (the schedule is the model's own, log 5). In `Running`, a `Cycle` fetches at
`PC`, advances `PC` and executes the decoded instruction, or emits `UnknownOpcode`: first with nothing scheduled (the random
byte is then the model's free value, log 3), then for a `Cycle(b)` of the host. -/
def Obligations.StepRunsTheDecodedInstruction : Prop :=
  ∀ s : State,
    (∀ op rest, s.schedule = op :: rest → step s = operate op { s with schedule := rest }) ∧
    (s.es = .running → s.schedule = [] →
      ∃ u, u.pc = s.pc + 2#16 ∧ u.events = [] ∧ u.loadResult = none ∧ u.ran = true ∧ u.rnd = none ∧
        SameExcept cycleParts s u ∧
        (∀ i, decodeWord (s.fetch16 s.pc.toNat) = .op i → step s = exec i u) ∧
        (decodeWord (s.fetch16 s.pc.toNat) = .unknown →
          ∃ t, step s = .next t ∧ t.events = [.unknownOpcode s.pc (s.fetch16 s.pc.toNat)] ∧
            SameExcept [.events] u t)) ∧
    (∀ b rest, s.es = .running → s.schedule = .cycle b :: rest →
      ∃ u, u.pc = s.pc + 2#16 ∧ u.events = [] ∧ u.loadResult = none ∧ u.ran = true ∧ u.rnd = some b ∧
        u.schedule = rest ∧ SameExcept (.schedule :: cycleParts) s u ∧
        (∀ i, decodeWord (s.fetch16 s.pc.toNat) = .op i → step s = exec i u) ∧
        (decodeWord (s.fetch16 s.pc.toNat) = .unknown →
          ∃ t, step s = .next t ∧ t.events = [.unknownOpcode s.pc (s.fetch16 s.pc.toNat)] ∧
            SameExcept [.events] u t))

/-- 20_memory.md R67: instruction words are big-endian in memory, at every address, for the fetch and for a word placed
as bytes. -/
def Obligations.FetchIsBigEndian : Prop :=
  ∀ (s : State) (a : Nat),
    (s.fetch16 a).extractLsb' 8 8 = s.readByte a ∧ (s.fetch16 a).extractLsb' 0 8 = s.readByte (a + 1) ∧
    ∀ w : Word, (s.placeWord a w).fetch16 a = w

/-- 20_memory.md R65, R66 (the spec's decision D24): the bits of the address above bit 11 never influence a fetch, and the
second byte of a fetch at 0xFFF is the byte at 0x000. -/
def Obligations.FetchUsesTwelveAddressBits : Prop :=
  ∀ s : State,
    (∀ p q : Word, p &&& 0xFFF#16 = q &&& 0xFFF#16 → s.fetch16 p.toNat = s.fetch16 q.toNat) ∧
    s.fetch16 0xFFF = s.readByte 0xFFF ++ s.readByte 0x000

/-- 20_memory.md R75: a store by `FX55` or `FX33`, wherever `I` points and whatever `X` is, to a byte of the next instruction
is seen by its fetch; a byte of it that is not stored to is fetched as before. -/
def Obligations.NextFetchSeesTheStore : Prop :=
  ∀ (s : State) (b : Byte) (x : Nibble), s.es = .running →
    (decodeWord (s.fetch16 s.pc.toNat) = .op (.ldMemVx x) →
      ∃ t, operate (.cycle b) s = .next t ∧ t.pc = s.pc + 2#16 ∧ t.es = .running ∧
        FetchesTheStore s t (x.toNat + 1) (fun k => s.reg (BitVec.ofNat 4 k))) ∧
    (decodeWord (s.fetch16 s.pc.toNat) = .op (.ldB x) →
      ∃ t, operate (.cycle b) s = .next t ∧ t.pc = s.pc + 2#16 ∧ t.es = .running ∧
        FetchesTheStore s t 3 (fun k =>
          if k = 0 then BitVec.ofNat 8 ((s.reg x).toNat / 100)
          else if k = 1 then BitVec.ofNat 8 ((s.reg x).toNat / 10 % 10)
          else BitVec.ofNat 8 ((s.reg x).toNat % 10)))

/-! ## Address-only and zero-operand instructions -/

/-- 40_address_only.md R100 (extent of `0NNN`: the spec's decision D7): a word 0x0000..0x0FFF but for 0x00E0 and 0x00EE is
a no-op: the advance of `PC`, and no event. -/
def Obligations.SysIsNoOp : Prop :=
  (∀ (s : State) (nnn : Addr), ∃ t, exec (.sys nnn) s = .next t ∧ SameExcept [] s t) ∧
  (∀ w : Word, w.extractLsb' 12 4 = 0#4 → w ≠ 0x00E0#16 → w ≠ 0x00EE#16 →
    decodeWord w = .op (.sys (w.extractLsb' 0 12)))

/-- 40_address_only.md R101. -/
def Obligations.JumpSetsPc : Prop :=
  (∀ w : Word, w.extractLsb' 12 4 = 0x1#4 → decodeWord w = .op (.jp (w.extractLsb' 0 12))) ∧
  (∀ (s : State) (nnn : Addr), ∃ t, exec (.jp nnn) s = .next t ∧ t.pc.toNat = nnn.toNat ∧ SameExcept [.pc] s t)

/-- 40_address_only.md R102 (slot order: the spec's decision D5; state after the error: D14): a call with fewer than 16
entries pushes the advanced `PC` and jumps. -/
def Obligations.CallPushesReturnAddress : Prop :=
  ∀ (s : State) (nnn : Addr), s.sp.val < 16 →
    ∃ t, exec (.call nnn) s = .next t ∧ t.pc.toNat = nnn.toNat ∧ t.sp.val = s.sp.val + 1 ∧
      (∀ (k : Nat) (hk : k < 16), t.stack[k] = if k = s.sp.val then s.pc else s.stack[k]) ∧
      SameExcept [.pc, .sp, .stack] s t

/-- 45_zero_operand.md R171 (the spec's decisions D5, D14): a return with an entry in use pops `PC`; the slot keeps its
value. -/
def Obligations.ReturnPopsPc : Prop :=
  ∀ (s : State) (h : 0 < s.sp.val),
    ∃ t, exec .ret s = .next t ∧ t.pc = s.stack[s.sp.val - 1]'(by omega) ∧ t.sp.val = s.sp.val - 1 ∧
      SameExcept [.pc, .sp] s t

/-- 40_address_only.md R102, 45_zero_operand.md R171, 60_exceptions.md R190 (the spec's decision D14): a call with 16
entries in use and a return with none halt the engine and write nothing else. -/
def Obligations.StackErrorsHaltTheEngine : Prop :=
  (∀ (s : State) (nnn : Addr), s.sp.val = 16 →
    ∃ t, exec (.call nnn) s = .next t ∧ t.es = .halted .stackOverflow ∧ SameExcept [.es] s t) ∧
  (∀ s : State, s.sp.val = 0 →
    ∃ t, exec .ret s = .next t ∧ t.es = .halted .stackUnderflow ∧ SameExcept [.es] s t)

/-- 40_address_only.md R102, 45_zero_operand.md R171 (the spec's decision D5; nothing scheduled: the model's log 5): a call
whose subroutine returns at once comes back to the instruction after the call, with the stack depth, the registers and
memory as before; of the stack only the slot pushed to and popped from differs, and it keeps the return address. -/
def Obligations.CallThenReturnComesBack : Prop :=
  ∀ (s : State) (nnn : Addr), s.es = .running → s.schedule = [] → s.sp.val < 16 →
    decodeWord (s.fetch16 s.pc.toNat) = .op (.call nnn) → decodeWord (s.fetch16 nnn.toNat) = .op .ret →
    ∃ t u, step s = .next t ∧ step t = .next u ∧ u.pc = s.pc + 2#16 ∧ u.events = [] ∧
      SameExcept (.stack :: cycleParts) s u ∧
      (∀ (k : Nat) (hk : k < 16), u.stack[k] = if k = s.sp.val then s.pc + 2#16 else s.stack[k])

/-- 40_address_only.md R103. -/
def Obligations.LoadIndexSetsI : Prop :=
  (∀ w : Word, w.extractLsb' 12 4 = 0xA#4 → decodeWord w = .op (.ldI (w.extractLsb' 0 12))) ∧
  (∀ (s : State) (nnn : Addr), ∃ t, exec (.ldI nnn) s = .next t ∧ t.i.toNat = nnn.toNat ∧ SameExcept [.i] s t)

/-- 40_address_only.md R104 (stored `PC` of 16 bits: the spec's decision D3): the sum never wraps, so `PC` may exceed
0xFFF. -/
def Obligations.IndexedJumpAddsV0 : Prop :=
  ∀ (s : State) (nnn : Addr),
    ∃ t, exec (.jpV0 nnn) s = .next t ∧ t.pc.toNat = nnn.toNat + (s.reg 0#4).toNat ∧ SameExcept [.pc] s t

/-- 45_zero_operand.md R170 (the event: the spec's decision D16). -/
def Obligations.ClearScreenClearsEveryPixel : Prop :=
  ∀ s : State, ∃ t, exec .cls s = .next t ∧ (∀ x y, t.pixelAt x y = false) ∧
    t.events = s.events ++ [.frameDirty] ∧ SameExcept [.fb, .events] s t

/-! ## Register+immediate instructions -/

/-- 41_register_immediate.md R110, R111: skip on equal and its exact complement. -/
def Obligations.ImmediateSkips : Prop :=
  (∀ w : Word, w.extractLsb' 12 4 = 0x3#4 → decodeWord w = .op (.seImm (w.extractLsb' 8 4) (w.extractLsb' 0 8))) ∧
  (∀ w : Word, w.extractLsb' 12 4 = 0x4#4 → decodeWord w = .op (.sneImm (w.extractLsb' 8 4) (w.extractLsb' 0 8))) ∧
  (∀ (s : State) (x : Nibble) (nn : Byte), ∃ t u,
    exec (.seImm x nn) s = .next t ∧ exec (.sneImm x nn) s = .next u ∧
    t.pc.toNat = (if s.reg x = nn then (s.pc.toNat + 2) % 65536 else s.pc.toNat) ∧
    u.pc.toNat = (if s.reg x = nn then s.pc.toNat else (s.pc.toNat + 2) % 65536) ∧
    SameExcept [.pc] s t ∧ SameExcept [.pc] s u)

/-- 41_register_immediate.md R112. -/
def Obligations.LoadImmediateSetsVx : Prop :=
  (∀ w : Word, w.extractLsb' 12 4 = 0x6#4 → decodeWord w = .op (.ldImm (w.extractLsb' 8 4) (w.extractLsb' 0 8))) ∧
  (∀ (s : State) (x : Nibble) (nn : Byte), ∃ t, exec (.ldImm x nn) s = .next t ∧
    (∀ r, t.reg r = if r = x then nn else s.reg r) ∧ SameExcept [.v] s t)

/-- 41_register_immediate.md R113: 8-bit wraparound, no flag change. -/
def Obligations.AddImmediateWrapsWithoutFlag : Prop :=
  (∀ w : Word, w.extractLsb' 12 4 = 0x7#4 → decodeWord w = .op (.addImm (w.extractLsb' 8 4) (w.extractLsb' 0 8))) ∧
  (∀ (s : State) (x : Nibble) (nn : Byte), ∃ t, exec (.addImm x nn) s = .next t ∧
    (t.reg x).toNat = ((s.reg x).toNat + nn.toNat) % 256 ∧ (∀ r, r ≠ x → t.reg r = s.reg r) ∧ SameExcept [.v] s t)

/-- 41_register_immediate.md R114 (the spec's decision D18; without a scheduled argument the random byte is the model's
free value, log 3): the result is `rnd & NN`, so that no bit outside `NN` is set. -/
def Obligations.RandomIsMaskedByNN : Prop :=
  ∀ (s : State) (x : Nibble) (nn : Byte), ∃ t, exec (.rnd x nn) s = .next t ∧
    (t.reg x &&& ~~~nn) = 0#8 ∧ (∀ r, r ≠ x → t.reg r = s.reg r) ∧
    match s.rnd with
    | some b => t.reg x = b &&& nn ∧ SameExcept [.v] s t
    | none => t.reg x = Config.rndByte s.draws &&& nn ∧ t.draws = s.draws + 1 ∧ SameExcept [.v, .draws] s t

/-! ## Register+register instructions -/

/-- 42_register_register.md R125, R135 (the spec's decision D6 on words with another trailing nibble): skip on equal and
its exact complement; with `X = Y` the one always skips and the other never. -/
def Obligations.RegisterSkips : Prop :=
  (∀ w : Word, w.extractLsb' 12 4 = 0x5#4 → decodeWord w =
    if w.extractLsb' 0 4 = 0#4 then .op (.seReg (w.extractLsb' 8 4) (w.extractLsb' 4 4)) else .unknown) ∧
  (∀ w : Word, w.extractLsb' 12 4 = 0x9#4 → decodeWord w =
    if w.extractLsb' 0 4 = 0#4 then .op (.sneReg (w.extractLsb' 8 4) (w.extractLsb' 4 4)) else .unknown) ∧
  (∀ (s : State) (x y : Nibble), ∃ t u,
    exec (.seReg x y) s = .next t ∧ exec (.sneReg x y) s = .next u ∧
    t.pc.toNat = (if s.reg x = s.reg y then (s.pc.toNat + 2) % 65536 else s.pc.toNat) ∧
    u.pc.toNat = (if s.reg x = s.reg y then s.pc.toNat else (s.pc.toNat + 2) % 65536) ∧
    SameExcept [.pc] s t ∧ SameExcept [.pc] s u)

/-- 42_register_register.md R126 to R129: the destination, and no flag (the flag register too is unchanged unless it is
the destination). -/
def Obligations.MoveAndLogicWriteVxOnly : Prop :=
  (∀ w : Word, w.extractLsb' 12 4 = 0x8#4 →
    (w.extractLsb' 0 4 = 0x0#4 → decodeWord w = .op (.ldReg (w.extractLsb' 8 4) (w.extractLsb' 4 4))) ∧
    (w.extractLsb' 0 4 = 0x1#4 → decodeWord w = .op (.orReg (w.extractLsb' 8 4) (w.extractLsb' 4 4))) ∧
    (w.extractLsb' 0 4 = 0x2#4 → decodeWord w = .op (.andReg (w.extractLsb' 8 4) (w.extractLsb' 4 4))) ∧
    (w.extractLsb' 0 4 = 0x3#4 → decodeWord w = .op (.xorReg (w.extractLsb' 8 4) (w.extractLsb' 4 4)))) ∧
  (∀ (s : State) (x y : Nibble),
    (∃ t, exec (.ldReg x y) s = .next t ∧ (∀ r, t.reg r = if r = x then s.reg y else s.reg r) ∧
      SameExcept [.v] s t) ∧
    (∃ t, exec (.orReg x y) s = .next t ∧ (∀ r, t.reg r = if r = x then s.reg x ||| s.reg y else s.reg r) ∧
      SameExcept [.v] s t) ∧
    (∃ t, exec (.andReg x y) s = .next t ∧ (∀ r, t.reg r = if r = x then s.reg x &&& s.reg y else s.reg r) ∧
      SameExcept [.v] s t) ∧
    (∃ t, exec (.xorReg x y) s = .next t ∧ (∀ r, t.reg r = if r = x then s.reg x ^^^ s.reg y else s.reg r) ∧
      SameExcept [.v] s t))

/-- 42_register_register.md R130: the sum modulo 256, then the carry; the carry wins when the destination is `V[15]`. -/
def Obligations.AddRegisterSetsSumAndCarry : Prop :=
  (∀ w : Word, w.extractLsb' 12 4 = 0x8#4 → w.extractLsb' 0 4 = 0x4#4 →
    decodeWord w = .op (.addReg (w.extractLsb' 8 4) (w.extractLsb' 4 4))) ∧
  (∀ (s : State) (x y : Nibble), ∃ t, exec (.addReg x y) s = .next t ∧
    t.reg 15#4 = (if (s.reg x).toNat + (s.reg y).toNat > 255 then 1#8 else 0#8) ∧
    (x ≠ 15#4 → (t.reg x).toNat = ((s.reg x).toNat + (s.reg y).toNat) % 256) ∧
    (∀ r, r ≠ x → r ≠ 15#4 → t.reg r = s.reg r) ∧ SameExcept [.v] s t)

/-- 42_register_register.md R131: the difference modulo 256, then the not-borrow. -/
def Obligations.SubSetsDifferenceAndNotBorrow : Prop :=
  (∀ w : Word, w.extractLsb' 12 4 = 0x8#4 → w.extractLsb' 0 4 = 0x5#4 →
    decodeWord w = .op (.sub (w.extractLsb' 8 4) (w.extractLsb' 4 4))) ∧
  (∀ (s : State) (x y : Nibble), ∃ t, exec (.sub x y) s = .next t ∧
    t.reg 15#4 = (if (s.reg x).toNat < (s.reg y).toNat then 0#8 else 1#8) ∧
    (x ≠ 15#4 → ((t.reg x).toNat : Int) = ((s.reg x).toNat - (s.reg y).toNat : Int) % 256) ∧
    (∀ r, r ≠ x → r ≠ 15#4 → t.reg r = s.reg r) ∧ SameExcept [.v] s t)

/-- 42_register_register.md R133: the reverse difference modulo 256, then the not-borrow. -/
def Obligations.SubnSetsReverseDifferenceAndNotBorrow : Prop :=
  (∀ w : Word, w.extractLsb' 12 4 = 0x8#4 → w.extractLsb' 0 4 = 0x7#4 →
    decodeWord w = .op (.subn (w.extractLsb' 8 4) (w.extractLsb' 4 4))) ∧
  (∀ (s : State) (x y : Nibble), ∃ t, exec (.subn x y) s = .next t ∧
    t.reg 15#4 = (if (s.reg y).toNat < (s.reg x).toNat then 0#8 else 1#8) ∧
    (x ≠ 15#4 → ((t.reg x).toNat : Int) = ((s.reg y).toNat - (s.reg x).toNat : Int) % 256) ∧
    (∀ r, r ≠ x → r ≠ 15#4 → t.reg r = s.reg r) ∧ SameExcept [.v] s t)

/-- 42_register_register.md R132, R134: shifts by one of `V[X]`, whatever `Y` is; the flag is the bit shifted out. -/
def Obligations.ShiftsMoveVxByOneBit : Prop :=
  (∀ w : Word, w.extractLsb' 12 4 = 0x8#4 →
    (w.extractLsb' 0 4 = 0x6#4 → decodeWord w = .op (.shr (w.extractLsb' 8 4) (w.extractLsb' 4 4))) ∧
    (w.extractLsb' 0 4 = 0xE#4 → decodeWord w = .op (.shl (w.extractLsb' 8 4) (w.extractLsb' 4 4)))) ∧
  (∀ (s : State) (x y : Nibble), ∃ t u,
    exec (.shr x y) s = .next t ∧ exec (.shl x y) s = .next u ∧
    (t.reg 15#4).toNat = (s.reg x).toNat % 2 ∧ (u.reg 15#4).toNat = (s.reg x).toNat / 128 ∧
    (x ≠ 15#4 → (t.reg x).toNat = (s.reg x).toNat / 2 ∧ (u.reg x).toNat = (s.reg x).toNat * 2 % 256) ∧
    (∀ r, r ≠ x → r ≠ 15#4 → t.reg r = s.reg r ∧ u.reg r = s.reg r) ∧
    SameExcept [.v] s t ∧ SameExcept [.v] s u)

/-- 42_register_register.md R122 (there derived): the subtraction flag is the carry out of bit 7 of `a + ~b + 1`. -/
def Obligations.NotBorrowIsCarryOfComplementSum : Prop :=
  ∀ (s : State) (x y : Nibble), ∃ t u, exec (.sub x y) s = .next t ∧ exec (.subn x y) s = .next u ∧
    (t.reg 15#4).toNat = ((s.reg x).toNat + (~~~(s.reg y)).toNat + 1) / 256 ∧
    (u.reg 15#4).toNat = ((s.reg y).toNat + (~~~(s.reg x)).toNat + 1) / 256

/-! ## Drawing -/

/-- 43_register_register_nibble.md R144 (bit order: the spec's decision D8, log 2; `N = 0`: D22; the event: D16): every
pixel is XOR-ed with the sprite pixel that lands on it, and `V[15]` tells whether a set pixel was cleared. -/
def Obligations.DrawXorsTheSprite : Prop :=
  ∀ (s : State) (x y n : Nibble), ∃ t, exec (.drw x y n) s = .next t ∧
    (∀ px py, (s.spriteCovers (s.reg x) (s.reg y) n px py → t.pixelAt px py = !s.pixelAt px py) ∧
      (¬ s.spriteCovers (s.reg x) (s.reg y) n px py → t.pixelAt px py = s.pixelAt px py)) ∧
    ((∃ px py, s.spriteCovers (s.reg x) (s.reg y) n px py ∧ s.pixelAt px py = true) → t.reg 15#4 = 1#8) ∧
    ((¬ ∃ px py, s.spriteCovers (s.reg x) (s.reg y) n px py ∧ s.pixelAt px py = true) → t.reg 15#4 = 0#8) ∧
    (∀ r, r ≠ 15#4 → t.reg r = s.reg r) ∧
    t.events = s.events ++ [.frameDirty] ∧ SameExcept [.fb, .v, .events] s t

/-- 43_register_register_nibble.md R145 (g) (there derived; bit order: the spec's decision D8, log 2): the same sprite drawn
twice at the same place restores the framebuffer, and the second draw reports a collision exactly when a 1 bit had landed
on a clear pixel. The place is the same at both draws whenever the first draw's flag leaves both coordinate registers as
they were, which it does when neither is `V[15]`, and also when `V[15]` already held that flag. -/
def Obligations.DrawingTwiceRestoresTheFramebuffer : Prop :=
  ∀ (s : State) (x y n : Nibble), ∃ t, exec (.drw x y n) s = .next t ∧
    (x ≠ 15#4 → t.reg x = s.reg x) ∧ (y ≠ 15#4 → t.reg y = s.reg y) ∧
    (t.reg x = s.reg x → t.reg y = s.reg y →
      ∃ u, exec (.drw x y n) t = .next u ∧
        (∀ px py, u.pixelAt px py = s.pixelAt px py) ∧
        (u.reg 15#4 = 1#8 ↔ ∃ px py, s.spriteCovers (s.reg x) (s.reg y) n px py ∧ s.pixelAt px py = false) ∧
        (u.reg 15#4 = 0#8 ↔ ¬ ∃ px py, s.spriteCovers (s.reg x) (s.reg y) n px py ∧ s.pixelAt px py = false))

/-! ## Single-register instructions -/

/-- 44_single_register.md R150, R151: the low nibble of `V[X]` selects the key; skip on pressed and its exact
complement. -/
def Obligations.KeySkips : Prop :=
  (∀ w : Word, w &&& 0xF0FF#16 = 0xE09E#16 → decodeWord w = .op (.skp (w.extractLsb' 8 4))) ∧
  (∀ w : Word, w &&& 0xF0FF#16 = 0xE0A1#16 → decodeWord w = .op (.sknp (w.extractLsb' 8 4))) ∧
  (∀ (s : State) (x : Nibble), ∃ t u, exec (.skp x) s = .next t ∧ exec (.sknp x) s = .next u ∧
    t.pc.toNat = (if s.keyAt (BitVec.ofNat 4 ((s.reg x).toNat % 16)) = true
      then (s.pc.toNat + 2) % 65536 else s.pc.toNat) ∧
    u.pc.toNat = (if s.keyAt (BitVec.ofNat 4 ((s.reg x).toNat % 16)) = true
      then s.pc.toNat else (s.pc.toNat + 2) % 65536) ∧
    SameExcept [.pc] s t ∧ SameExcept [.pc] s u)

/-- 44_single_register.md R152, R154, R155: reading `DT`, writing `DT` and `ST`; the sound is active while `ST` is not
0. -/
def Obligations.TimerRegistersMove : Prop :=
  (∀ w : Word, w &&& 0xF0FF#16 = 0xF007#16 → decodeWord w = .op (.ldVxDt (w.extractLsb' 8 4))) ∧
  (∀ w : Word, w &&& 0xF0FF#16 = 0xF015#16 → decodeWord w = .op (.ldDtVx (w.extractLsb' 8 4))) ∧
  (∀ w : Word, w &&& 0xF0FF#16 = 0xF018#16 → decodeWord w = .op (.ldStVx (w.extractLsb' 8 4))) ∧
  (∀ (s : State) (x : Nibble),
    (∃ t, exec (.ldVxDt x) s = .next t ∧ (∀ r, t.reg r = if r = x then s.dt else s.reg r) ∧ SameExcept [.v] s t) ∧
    (∃ t, exec (.ldDtVx x) s = .next t ∧ t.dt = s.reg x ∧ SameExcept [.dt] s t) ∧
    (∃ t, exec (.ldStVx x) s = .next t ∧ t.st = s.reg x ∧
      (t.soundActive = true ↔ s.reg x ≠ 0#8) ∧ SameExcept [.st] s t))

/-- 44_single_register.md R153 (press, not release, completes the wait: the spec's decisions D11, D12): the `Cycle` of
`FX0A` writes nothing but the engine state; the next `KeyDown`, and no `KeyUp`, writes the register and resumes. -/
def Obligations.KeyWaitEndsWithTheNextPress : Prop :=
  ∀ (s : State) (x k : Nibble), ∃ t, exec (.ldVxK x) s = .next t ∧ t.es = .awaitingKey x ∧ SameExcept [.es] s t ∧
    (∃ u, operate (.keyDown k) t = .next u ∧ u.es = .running ∧ (u.reg x).toNat = k.toNat ∧ u.keyAt k = true ∧
      (∀ r, r ≠ x → u.reg r = s.reg r) ∧ (∀ q, q ≠ k → u.keyAt q = s.keyAt q) ∧
      SameExcept (.es :: .v :: .key :: outputParts) t u) ∧
    (∃ u, operate (.keyUp k) t = .next u ∧ u.es = .awaitingKey x ∧ u.keyAt k = false ∧
      (∀ q, q ≠ k → u.keyAt q = s.keyAt q) ∧ SameExcept (.key :: outputParts) t u)

/-- 44_single_register.md R156 (stored `I` of 16 bits: the spec's decision D4): modulo 65536, and no flag. -/
def Obligations.AddIndexWrapsAtSixteenBits : Prop :=
  ∀ (s : State) (x : Nibble), ∃ t, exec (.addI x) s = .next t ∧
    t.i.toNat = (s.i.toNat + (s.reg x).toNat) % 65536 ∧ SameExcept [.i] s t

/-- 44_single_register.md R157 (no mask on `V[X]`: the spec's decision D10). -/
def Obligations.GlyphAddressIsFiveTimesVx : Prop :=
  ∀ (s : State) (x : Nibble), ∃ t, exec (.ldF x) s = .next t ∧ t.i.toNat = 5 * (s.reg x).toNat ∧ SameExcept [.i] s t

/-- 44_single_register.md R158: the decimal digits at `I`, `I+1`, `I+2`, each address masked to 12 bits; every other byte
as before. -/
def Obligations.BcdStoresThreeDigits : Prop :=
  (∀ w : Word, w &&& 0xF0FF#16 = 0xF033#16 → decodeWord w = .op (.ldB (w.extractLsb' 8 4))) ∧
  (∀ (s : State) (x : Nibble), ∃ t, exec (.ldB x) s = .next t ∧
    (t.readByte s.i.toNat).toNat = (s.reg x).toNat / 100 ∧
    (t.readByte (s.i.toNat + 1)).toNat = (s.reg x).toNat / 10 % 10 ∧
    (t.readByte (s.i.toNat + 2)).toNat = (s.reg x).toNat % 10 ∧
    (∀ a : Nat, a % 4096 ≠ s.dataAddr 0 % 4096 → a % 4096 ≠ s.dataAddr 1 % 4096 → a % 4096 ≠ s.dataAddr 2 % 4096 →
      t.readByte a = s.readByte a) ∧
    SameExcept [.mem] s t)

/-- 44_single_register.md R159: `V[0]` .. `V[X]` at `I` and up, each address masked to 12 bits; every other byte as
before, `I` unchanged. -/
def Obligations.DumpStoresRegisters : Prop :=
  (∀ w : Word, w &&& 0xF0FF#16 = 0xF055#16 → decodeWord w = .op (.ldMemVx (w.extractLsb' 8 4))) ∧
  (∀ (s : State) (x : Nibble), ∃ t, exec (.ldMemVx x) s = .next t ∧
    (∀ k : Nibble, k.toNat ≤ x.toNat → t.readByte (s.dataAddr k.toNat) = s.reg k) ∧
    (∀ a : Nat, (∀ k : Nat, k ≤ x.toNat → a % 4096 ≠ s.dataAddr k % 4096) → t.readByte a = s.readByte a) ∧
    SameExcept [.mem] s t)

/-- 44_single_register.md R160: `V[0]` .. `V[X]` from `I` and up; the registers above `X`, and `I`, unchanged. -/
def Obligations.LoadReadsRegisters : Prop :=
  (∀ w : Word, w &&& 0xF0FF#16 = 0xF065#16 → decodeWord w = .op (.ldVxMem (w.extractLsb' 8 4))) ∧
  (∀ (s : State) (x : Nibble), ∃ t, exec (.ldVxMem x) s = .next t ∧
    (∀ r : Nibble, t.reg r = if r.toNat ≤ x.toNat then s.readByte (s.i.toNat + r.toNat) else s.reg r) ∧
    SameExcept [.v] s t)

/-- 44_single_register.md R161 (there derived): a dump followed, in any state with the same `I` that keeps the bytes dumped,
by a load with the same `X` restores `V[0]` .. `V[X]`; the digits stored by `FX33` are loaded by `FX65` with `X = 2` into
`V[0]`, `V[1]`, `V[2]`. -/
def Obligations.LoadRestoresTheDump : Prop :=
  ∀ (s : State) (x : Nibble),
    (∃ t, exec (.ldMemVx x) s = .next t ∧ ∀ u : State, u.i = s.i →
      (∀ k : Nat, k ≤ x.toNat → u.readByte (s.dataAddr k) = t.readByte (s.dataAddr k)) →
      ∃ w, exec (.ldVxMem x) u = .next w ∧ ∀ r : Nibble, r.toNat ≤ x.toNat → w.reg r = s.reg r) ∧
    (∃ t, exec (.ldB x) s = .next t ∧ ∀ u : State, u.i = s.i →
      (∀ k : Nat, k ≤ 2 → u.readByte (s.dataAddr k) = t.readByte (s.dataAddr k)) →
      ∃ w, exec (.ldVxMem 2#4) u = .next w ∧ (w.reg 0#4).toNat = (s.reg x).toNat / 100 ∧
        (w.reg 1#4).toNat = (s.reg x).toNat / 10 % 10 ∧ (w.reg 2#4).toNat = (s.reg x).toNat % 10)

/-! ## The engine and the host's operations -/

/-- 60_exceptions.md R186: in `AwaitingKey` a `Cycle`, whatever its random byte, changes no state and returns no event. -/
def Obligations.WaitingCycleChangesNothing : Prop :=
  ∀ (s : State) (x : Nibble) (b : Byte), s.es = .awaitingKey x →
    ∃ t, operate (.cycle b) s = .next t ∧ t.events = [] ∧ SameExcept outputParts s t

/-- 60_exceptions.md R187 (the spec's decision D15; the model's logs 5 and 8): a halted engine has no step of its own, and a
`Cycle` the host invokes all the same changes no state and returns no event; an engine that waits for a key, with nothing
scheduled, stays as it is. -/
def Obligations.HaltedEngineIsStuck : Prop :=
  (∀ (s : State) (r : HaltReason), s.es = .halted r →
    (s.schedule = [] → step s = .fault (.halted r)) ∧
    (∀ b, ∃ t, operate (.cycle b) s = .next t ∧ t.events = [] ∧ SameExcept outputParts s t)) ∧
  (∀ (s : State) (x : Nibble), s.es = .awaitingKey x → s.schedule = [] →
    ∃ t, step s = .next t ∧ t.events = [] ∧ SameExcept outputParts s t)

/-- 60_exceptions.md R188 (content of the event: the spec's decision D17): an unknown word changes nothing but `PC`, is
reported with its address, and the engine stays `Running`. -/
def Obligations.UnknownWordIsReportedAndSkipped : Prop :=
  ∀ (s : State) (b : Byte), s.es = .running → decodeWord (s.fetch16 s.pc.toNat) = .unknown →
    ∃ t, operate (.cycle b) s = .next t ∧ t.es = .running ∧ t.pc.toNat = (s.pc.toNat + 2) % 65536 ∧
      t.events = [.unknownOpcode s.pc (s.fetch16 s.pc.toNat)] ∧ SameExcept cycleParts s t

/-- 60_exceptions.md R197, in every engine state, `Halted` included (R198, the spec's decision D13; log 9): both timers are
decremented and floored at 0, and nothing else is touched; after `n` ticks each has lost `n`, never below 0. -/
def Obligations.TimerTickCountsDownToZero : Prop :=
  (∀ s : State, ∃ t, operate .timerTick s = .next t ∧ t.dt.toNat = s.dt.toNat - 1 ∧ t.st.toNat = s.st.toNat - 1 ∧
    t.events = [] ∧ SameExcept (.dt :: .st :: outputParts) s t) ∧
  (∀ (s : State) (n : Nat), (State.timerTick^[n] s).dt.toNat = s.dt.toNat - n ∧
    (State.timerTick^[n] s).st.toNat = s.st.toNat - n)

/-- 60_exceptions.md R199, R200 (every press counts, a release never completes the wait: the spec's decisions D11, D12):
outside a key wait both change only the key. -/
def Obligations.KeyOperationsWriteTheKey : Prop :=
  ∀ (s : State) (k : Nibble), (∀ x, s.es ≠ .awaitingKey x) →
    (∃ t, operate (.keyDown k) s = .next t ∧ (∀ q, t.keyAt q = if q = k then true else s.keyAt q) ∧
      SameExcept (.key :: outputParts) s t) ∧
    (∃ t, operate (.keyUp k) s = .next t ∧ (∀ q, t.keyAt q = if q = k then false else s.keyAt q) ∧
      SameExcept (.key :: outputParts) s t)

/-- 60_exceptions.md R193 (the spec's decision D26): `Stop` halts an engine that is not halted, and the first reason is
kept. -/
def Obligations.StopHaltsOnce : Prop :=
  ∀ s : State, ∃ t, operate .stop s = .next t ∧ SameExcept (.es :: outputParts) s t ∧
    t.es = match s.es with
      | .halted r => .halted r
      | .running => .halted .externalStop
      | .awaitingKey _ => .halted .externalStop

/-- 10_state.md R48: after `Reset(FONT)`, whatever the font, memory is the font at 0x000..0x04F and 0 elsewhere, one byte
per glyph row, glyph `d` at `5*d`. -/
def Obligations.ResetPlacesTheFont : Prop :=
  ∀ (s : State) (f : Vector Byte 80), ∃ t, operate (.reset f) s = .next t ∧
    (∀ (a : Nat) (h : a < 80), t.readByte a = f[a]) ∧ (∀ a : Nat, 80 ≤ a → a < 4096 → t.readByte a = 0#8) ∧
    (∀ (d r : Nat) (hd : d < 16) (hr : r < 5), t.readByte (5 * d + r) = f[5 * d + r]'(by omega))

/-- 70_reset_and_hazards.md R210 (engine state and no event: the spec's decision D20; the host's schedule and the count of
free draws stay: logs 4, 5): every other piece of state has its reset value, in every engine state before; with the
default font the block is in `State.reset` exactly. -/
def Obligations.ResetSetsEveryRegister : Prop :=
  ∀ (s : State) (f : Vector Byte 80), ∃ t, operate (.reset f) s = .next t ∧
    (∀ r, t.reg r = 0#8) ∧ t.i = 0#16 ∧ t.pc = 0x0200#16 ∧ (∀ (k : Nat) (hk : k < 16), t.stack[k] = 0#16) ∧ t.sp = 0 ∧
    t.dt = 0#8 ∧ t.st = 0#8 ∧ (∀ x y, t.pixelAt x y = false) ∧ (∀ k, t.keyAt k = false) ∧ t.es = .running ∧
    t.events = [] ∧
    operate (.reset font) s = .next { State.reset with schedule := s.schedule, draws := s.draws }

/-- 70_reset_and_hazards.md R213: an image of more than 3584 bytes is rejected whole; another is copied verbatim from
0x200, and nothing else changes. Stated before the first `Cycle`, where the operation is defined (R214, the spec's decision
D19; `ran` is the model's record of it, log 7). That `RomTooLarge` is an answer in `loadResult` and no fault is log 6. -/
def Obligations.LoadProgramCopiesTheImage : Prop :=
  ∀ (s : State) (bytes : List Byte), s.ran = false →
    (bytes.length > 3584 → ∃ t, operate (.loadProgram bytes) s = .next t ∧ t.loadResult = some .romTooLarge ∧
      t.events = [] ∧ SameExcept outputParts s t) ∧
    (bytes.length ≤ 3584 → ∃ t, operate (.loadProgram bytes) s = .next t ∧ t.loadResult = some .ok ∧ t.events = [] ∧
      (∀ (j : Nat) (h : j < bytes.length), t.readByte (0x200 + j) = bytes[j]) ∧
      (∀ a : Nat, a < 4096 → (a < 0x200 ∨ 0x200 + bytes.length ≤ a) → t.readByte a = s.readByte a) ∧
      SameExcept (.mem :: outputParts) s t)

/-- 70_reset_and_hazards.md R214 (the spec's decision D19; log 7): once a `Cycle` has run, `LoadProgram` is refused; a
`Cycle` in `Running` records that it has run, whatever it executes, and only `Reset` takes that back. -/
def Obligations.LoadProgramIsRefusedAfterACycle : Prop :=
  (∀ (s : State) (bytes : List Byte), s.ran = true →
    operate (.loadProgram bytes) s = .refused .loadProgramAfterCycle) ∧
  (∀ (s : State) (b : Byte), s.es = .running → ∃ t, operate (.cycle b) s = .next t ∧ t.ran = true) ∧
  (∀ (s t : State) (op : HostOp), s.ran = true → operate op s = .next t → t.ran = true ∨ ∃ f, op = .reset f)

/-! ## Whole-machine rules -/

/-- 70_reset_and_hazards.md R210, R211: the invariant holds after reset (its memory clause is log 12, its outputs and its
record of a `Cycle` logs 6 and 7). -/
def Obligations.ResetHasTheInvariant : Prop := State.reset.Inv

/-- Every step, from every state that has the invariant, keeps it: memory stays in its canonical form (log 12), an operation
returns at most one event and only a `Cycle` that leaves the engine `Running` returns one (00_scope.md R11), a key wait or
a stack error means that a `Cycle` has run, and before the first `Cycle` nothing but `MEM`, `KEY` and `ES` differs from
reset: the registers, the stack slots, the timers and the framebuffer are as `Reset` leaves them. The fields that record the
outputs, the schedule and that a `Cycle` has run are the model's own (logs 5, 6, 7). -/
def Obligations.EveryStepKeepsTheInvariant : Prop :=
  ∀ s t : State, s.Inv → step s = .next t → t.Inv

/-- 60_exceptions.md R191, R192: `StackOverflow` is raised by `2NNN` with `SP = 16` and by nothing else, `StackUnderflow`
by `00EE` with `SP = 0` and by nothing else; each of the two raises it there, before any push or pop. -/
def Obligations.OnlyCallAndReturnRaiseStackErrors : Prop :=
  ∀ (i : Instr) (s : State), s.es = .running →
    ∃ t, exec i s = .next t ∧
      (t.es = .halted .stackOverflow ↔ (∃ nnn, i = .call nnn) ∧ s.sp.val = 16) ∧
      (t.es = .halted .stackUnderflow ↔ i = .ret ∧ s.sp.val = 0) ∧
      (∀ r, t.es = .halted r → t.stack = s.stack ∧ t.sp = s.sp)

/-- 60_exceptions.md R184 (the spec's decisions D11, D15, D20, D26): the engine state moves exactly as the table says, for
each operation and for the `Cycle` that runs when nothing is scheduled (log 5), which a halted engine does not have
(log 8). -/
def Obligations.EngineStateMovesAsTheTableSays : Prop :=
  ∀ s t : State,
    (∀ op, operate op s = .next t → t.es = s.esAfter op) ∧
    (s.schedule = [] → step s = .next t → (∀ r, s.es ≠ .halted r) ∧ t.es = s.esAfterCycle)

/-- 10_state.md R41, R42, R43, R46, R47, R38, R44: which instructions write which piece of state, over all instructions;
no instruction writes `KEY`. -/
def Obligations.OnlyTheNamedInstructionsWriteEachRegister : Prop :=
  ∀ (i : Instr) (s : State), ∃ t, exec i s = .next t ∧ t.key = s.key ∧
    (t.i ≠ s.i → (∃ nnn, i = .ldI nnn) ∨ (∃ x, i = .addI x) ∨ (∃ x, i = .ldF x)) ∧
    (t.dt ≠ s.dt → ∃ x, i = .ldDtVx x) ∧ (t.st ≠ s.st → ∃ x, i = .ldStVx x) ∧
    (t.fb ≠ s.fb → i = .cls ∨ ∃ x y n, i = .drw x y n) ∧
    (t.stack ≠ s.stack → ∃ nnn, i = .call nnn) ∧ (t.sp ≠ s.sp → i = .ret ∨ ∃ nnn, i = .call nnn) ∧
    (t.mem ≠ s.mem → (∃ x, i = .ldB x) ∨ (∃ x, i = .ldMemVx x)) ∧
    (t.es ≠ s.es → i = .ret ∨ (∃ nnn, i = .call nnn) ∨ (∃ x, i = .ldVxK x)) ∧
    (t.pc ≠ s.pc → i = .ret ∨ (∃ nnn, i = .jp nnn) ∨ (∃ nnn, i = .call nnn) ∨ (∃ nnn, i = .jpV0 nnn) ∨
      (∃ x nn, i = .seImm x nn) ∨ (∃ x nn, i = .sneImm x nn) ∨ (∃ x y, i = .seReg x y) ∨ (∃ x y, i = .sneReg x y) ∨
      (∃ x, i = .skp x) ∨ (∃ x, i = .sknp x))

/-- 10_state.md R32, R35: the instructions that write `VF` as a flag write 0 or 1 to all of it, whatever `X` is; every
other instruction leaves index 15 alone unless it names it as a destination. -/
def Obligations.OnlySixInstructionsWriteTheFlag : Prop :=
  ∀ (i : Instr) (s : State), ∃ t, exec i s = .next t ∧
    (((∃ x y, i = .addReg x y) ∨ (∃ x y, i = .sub x y) ∨ (∃ x y, i = .shr x y) ∨ (∃ x y, i = .subn x y) ∨
        (∃ x y, i = .shl x y) ∨ (∃ x y n, i = .drw x y n)) → t.reg 15#4 = 0#8 ∨ t.reg 15#4 = 1#8) ∧
    (t.reg 15#4 ≠ s.reg 15#4 →
      (∃ x y, i = .addReg x y) ∨ (∃ x y, i = .sub x y) ∨ (∃ x y, i = .shr x y) ∨ (∃ x y, i = .subn x y) ∨
      (∃ x y, i = .shl x y) ∨ (∃ x y n, i = .drw x y n) ∨
      (∃ nn, i = .ldImm 15#4 nn) ∨ (∃ nn, i = .addImm 15#4 nn) ∨ (∃ nn, i = .rnd 15#4 nn) ∨
      (∃ y, i = .ldReg 15#4 y) ∨ (∃ y, i = .orReg 15#4 y) ∨ (∃ y, i = .andReg 15#4 y) ∨ (∃ y, i = .xorReg 15#4 y) ∨
      i = .ldVxDt 15#4 ∨ i = .ldVxMem 15#4)

/-- 00_scope.md R11 (the spec's decisions D16, D17): the list of events a `Cycle` returns, in `Running`: `[FrameDirty]` for
`00E0` and `DXYN`, `[UnknownOpcode]` for an unknown word, empty for everything else. -/
def Obligations.EventsAreExactlyThese : Prop :=
  ∀ (s t : State) (b : Byte), s.es = .running → operate (.cycle b) s = .next t →
    (decodeWord (s.fetch16 s.pc.toNat) = .unknown →
      t.events = [.unknownOpcode s.pc (s.fetch16 s.pc.toNat)]) ∧
    (∀ i, decodeWord (s.fetch16 s.pc.toNat) = .op i →
      ((i = .cls ∨ ∃ x y n, i = .drw x y n) → t.events = [.frameDirty]) ∧
      (¬ (i = .cls ∨ ∃ x y n, i = .drw x y n) → t.events = []))

/-- 00_scope.md R13 with 41_register_immediate.md R114 (the spec's decision D18): the random byte is used by `CXNN` only:
every other instruction does the same whatever byte is supplied. -/
def Obligations.RandomByteReachesOnlyRnd : Prop :=
  ∀ (i : Instr) (s : State) (r : Option Byte) (d : Nat), (∀ x nn, i ≠ .rnd x nn) →
    ∃ t, exec i s = .next t ∧ exec i { s with rnd := r, draws := d } = .next { t with rnd := r, draws := d }
end

