-- ==== Sys2Proof/Laws/Decode.lean ====
section
/-! SUPPORT. The fields of a packed word, and the two bytes of a word. -/

namespace Sys2Proof

theorem leadNibble_packA (l : Nibble) (nnn : Addr) : leadNibble (packA l nnn) = l := by
  ext i hi
  simp only [leadNibble, packA, BitVec.getElem_extractLsb', BitVec.getLsbD_append]
  have h : ¬ 12 + i < 12 := by omega
  simp [h, BitVec.getLsbD_eq_getElem hi]

theorem fieldNNN_packA (l : Nibble) (nnn : Addr) : fieldNNN (packA l nnn) = nnn := by
  ext i hi
  simp only [fieldNNN, packA, BitVec.getElem_extractLsb', BitVec.getLsbD_append, Nat.zero_add, hi]
  simp [BitVec.getLsbD_eq_getElem hi]

theorem leadNibble_packRI (l x : Nibble) (nn : Byte) : leadNibble (packRI l x nn) = l := by
  ext i hi
  simp only [leadNibble, packRI, BitVec.getElem_extractLsb', BitVec.getLsbD_append]
  have h1 : ¬ 12 + i < 8 := by omega
  have h2 : ¬ 12 + i - 8 < 4 := by omega
  have h3 : 12 + i - 8 - 4 = i := by omega
  simp [h1, h2, h3, BitVec.getLsbD_eq_getElem hi]

theorem fieldX_packRI (l x : Nibble) (nn : Byte) : fieldX (packRI l x nn) = x := by
  ext i hi
  simp only [fieldX, packRI, BitVec.getElem_extractLsb', BitVec.getLsbD_append]
  have h1 : ¬ 8 + i < 8 := by omega
  simp [h1, hi]

theorem fieldNN_packRI (l x : Nibble) (nn : Byte) : fieldNN (packRI l x nn) = nn := by
  ext i hi
  simp only [fieldNN, packRI, BitVec.getElem_extractLsb', BitVec.getLsbD_append, Nat.zero_add, hi]
  simp [BitVec.getLsbD_eq_getElem hi]

theorem packRR_eq_packRI (l x y n : Nibble) : packRR l x y n = packRI l x (y ++ n) := rfl

theorem leadNibble_packRR (l x y n : Nibble) : leadNibble (packRR l x y n) = l := leadNibble_packRI l x _

theorem fieldX_packRR (l x y n : Nibble) : fieldX (packRR l x y n) = x := fieldX_packRI l x _

theorem fieldY_packRR (l x y n : Nibble) : fieldY (packRR l x y n) = y := by
  ext i hi
  simp only [fieldY, packRR, BitVec.getElem_extractLsb', BitVec.getLsbD_append]
  have h1 : 4 + i < 8 := by omega
  have h2 : ¬ 4 + i < 4 := by omega
  simp [h1, h2, BitVec.getLsbD_eq_getElem hi]

theorem fieldN_packRR (l x y n : Nibble) : fieldN (packRR l x y n) = n := by
  ext i hi
  simp only [fieldN, packRR, BitVec.getElem_extractLsb', BitVec.getLsbD_append, Nat.zero_add]
  have h1 : i < 8 := by omega
  simp [h1, hi]

/-- The bits of a word of two bytes: the second byte's, then the first's (20_memory.md R67). -/
theorem getLsbD_wordOfBytes (hi lo : Byte) (i : Nat) :
    (wordOfBytes hi lo).getLsbD i = if i < 8 then lo.getLsbD i else hi.getLsbD (i - 8) := BitVec.getLsbD_append

/-- The two bytes of a word are the word (20_memory.md R66, R67). -/
theorem wordOfBytes_bytes (w : Word) : wordOfBytes (highByte w) (lowByte w) = w := by
  ext i hi
  rw [← BitVec.getLsbD_eq_getElem hi, ← BitVec.getLsbD_eq_getElem hi]
  simp only [wordOfBytes, highByte, lowByte, BitVec.getLsbD_append, BitVec.getLsbD_extractLsb']
  split
  next h => simp [h]
  next h =>
    have h1 : 8 + (i - 8) = i := by omega
    have h2 : i - 8 < 8 := by omega
    simp [h1, h2]

end Sys2Proof
end

