-- ==== Sys2Proof/Laws/Memory.lean ====
section
/-! SUPPORT. The laws of memory: a read after a write, and that every operation keeps the canonical form. -/

namespace Sys2Proof.Machine

theorem maskAddr_lt (a : Nat) : maskAddr a < 4096 := Nat.mod_lt _ (by decide)

theorem maskAddr_of_lt {a : Nat} (h : a < 4096) : maskAddr a = a := Nat.mod_eq_of_lt h

theorem Memory.lookup_put (m : Memory) (a k : Nat) (b : Byte) :
    (m.put a b).lookup k = if k = a then b else m.lookup k := by
  induction m with
  | nil => simp [Memory.put, Memory.lookup, eq_comm]
  | cons c t ih =>
    obtain ⟨j, c⟩ := c
    by_cases hk : k = a
    · subst hk
      simp only [Memory.put]
      split_ifs
      · simp [Memory.lookup]
      · simp [Memory.lookup]
      · simp only [Memory.lookup, ih, if_true, ite_eq_right_iff]
        omega
    · simp only [Memory.put, if_neg hk] at ih ⊢
      split_ifs with h1 h2
      · simp [Memory.lookup, Ne.symm hk]
      · simp [Memory.lookup, Ne.symm hk, ← h2]
      · simp [Memory.lookup, ih]

theorem Memory.lookup_drop (m : Memory) (a k : Nat) :
    (m.drop a).lookup k = if k = a then resetByte a else m.lookup k := by
  induction m with
  | nil => simp only [Memory.drop, Memory.lookup]; split_ifs with h <;> simp [h]
  | cons c t ih =>
    obtain ⟨j, c⟩ := c
    by_cases hk : k = a
    · subst hk
      simp only [Memory.drop, if_true] at ih ⊢
      split_ifs with h1
      · exact ih
      · simp [Memory.lookup, h1, ih]
    · simp only [Memory.drop, if_neg hk] at ih ⊢
      split_ifs with h1
      · simp [Memory.lookup, ih, h1, Ne.symm hk]
      · simp [Memory.lookup, ih]

/-- A read after a write: the byte written at its own address, every other byte as before (20_memory.md R64, R72). -/
theorem Memory.read_write (m : Memory) (a k : Nat) (b : Byte) :
    (m.write a b).read k = if maskAddr k = maskAddr a then b else m.read k := by
  simp only [Memory.read, Memory.write]
  split_ifs with h1 h2 h2 <;> simp [Memory.lookup_put, Memory.lookup_drop, h1, h2]

theorem Memory.read_write_same (m : Memory) (a : Nat) (b : Byte) : (m.write a b).read a = b := by
  simp [Memory.read_write]

theorem Memory.read_write_other (m : Memory) {a k : Nat} (b : Byte) (h : maskAddr k ≠ maskAddr a) :
    (m.write a b).read k = m.read k := by
  simp [Memory.read_write, h]

/-- A block of bytes written within the address space: each byte at its place, every other byte as before. -/
theorem Memory.read_writeBytes (bs : List Byte) (m : Memory) (base k : Nat) (hb : base + bs.length ≤ 4096) (hk : k < 4096) :
    (m.writeBytes base bs).read k =
      if h : base ≤ k ∧ k < base + bs.length then bs[k - base]'(by omega) else m.read k := by
  induction bs generalizing m base with
  | nil => simp [Memory.writeBytes]
  | cons b t ih =>
    simp only [List.length_cons] at hb
    rw [Memory.writeBytes, ih _ _ (by omega), Memory.read_write, maskAddr_of_lt hk, maskAddr_of_lt (by omega)]
    by_cases h1 : k = base
    · subst h1
      simp
    · by_cases h2 : base + 1 ≤ k ∧ k < base + 1 + t.length
      · rw [dif_pos h2, dif_pos (by simp only [List.length_cons]; omega)]
        have : k - base = (k - (base + 1)) + 1 := by omega
        simp [this]
      · rw [dif_neg h2, dif_neg (by simp only [List.length_cons]; omega), if_neg h1]

theorem Memory.wf_cons {k : Nat} {c : Byte} {t : Memory} :
    Memory.wf ((k, c) :: t) = true ↔ k < 4096 ∧ c ≠ resetByte k ∧ (∀ e ∈ t, k < e.1) ∧ Memory.wf t = true := by
  simp [Memory.wf, and_assoc]

theorem Memory.mem_drop {m : Memory} {a : Nat} {e : Host.Cell} (h : e ∈ m.drop a) : e ∈ m := by
  induction m with
  | nil => simp [Memory.drop] at h
  | cons c t ih =>
    obtain ⟨j, c⟩ := c
    simp only [Memory.drop] at h
    split_ifs at h
    · exact List.mem_cons_of_mem _ (ih h)
    · rcases List.mem_cons.1 h with rfl | h
      · simp
      · exact List.mem_cons_of_mem _ (ih h)

theorem Memory.mem_put {m : Memory} {a : Nat} {b : Byte} {e : Host.Cell} (h : e ∈ m.put a b) : e = (a, b) ∨ e ∈ m := by
  induction m with
  | nil => simpa [Memory.put] using h
  | cons c t ih =>
    obtain ⟨j, c⟩ := c
    simp only [Memory.put] at h
    split_ifs at h
    · simpa using h
    · rcases List.mem_cons.1 h with h | h
      · exact .inl h
      · exact .inr (List.mem_cons_of_mem _ h)
    · rcases List.mem_cons.1 h with rfl | h
      · simp
      · rcases ih h with h | h
        · exact .inl h
        · exact .inr (List.mem_cons_of_mem _ h)

theorem Memory.drop_wf {m : Memory} (a : Nat) (h : m.wf = true) : (m.drop a).wf = true := by
  induction m with
  | nil => rfl
  | cons c t ih =>
    obtain ⟨j, c⟩ := c
    obtain ⟨h1, h2, h3, h4⟩ := Memory.wf_cons.1 h
    simp only [Memory.drop]
    split_ifs
    · exact ih h4
    · exact Memory.wf_cons.2 ⟨h1, h2, fun e he => h3 e (Memory.mem_drop he), ih h4⟩

theorem Memory.put_wf {m : Memory} {a : Nat} {b : Byte} (ha : a < 4096) (hb : b ≠ resetByte a) (h : m.wf = true) :
    (m.put a b).wf = true := by
  induction m with
  | nil => exact Memory.wf_cons.2 ⟨ha, hb, by simp, rfl⟩
  | cons c t ih =>
    obtain ⟨j, c⟩ := c
    obtain ⟨h1, h2, h3, h4⟩ := Memory.wf_cons.1 h
    simp only [Memory.put]
    split_ifs with hlt heq
    · refine Memory.wf_cons.2 ⟨ha, hb, fun e he => ?_, h⟩
      rcases List.mem_cons.1 he with rfl | he
      · exact hlt
      · exact hlt.trans (h3 e he)
    · subst heq
      exact Memory.wf_cons.2 ⟨ha, hb, h3, h4⟩
    · refine Memory.wf_cons.2 ⟨h1, h2, fun e he => ?_, ih h4⟩
      rcases Memory.mem_put he with rfl | he
      · omega
      · exact h3 e he

/-- Every write keeps the canonical form. -/
theorem Memory.write_wf {m : Memory} (a : Nat) (b : Byte) (h : m.wf = true) : (m.write a b).wf = true := by
  simp only [Memory.write]
  split_ifs with hb
  · exact Memory.drop_wf _ h
  · exact Memory.put_wf (maskAddr_lt a) hb h

/-- Every block of writes keeps the canonical form. -/
theorem Memory.writeBytes_wf (bs : List Byte) {m : Memory} (base : Nat) (h : m.wf = true) :
    (m.writeBytes base bs).wf = true := by
  induction bs generalizing m base with
  | nil => exact h
  | cons b t ih => exact ih _ (Memory.write_wf _ _ h)

end Sys2Proof.Machine
end

