-- ==== Sys2Proof/Laws/State.lean ====
section
/-! SUPPORT. One lemma per field per update of the state, true by `rfl`, and one per view of a field the update leaves
alone; the skip, which branches, by its two cases. -/

namespace Sys2Proof.Machine

variable (s : State)

@[simp] theorem State.setV_mem (x : Nibble) (b : Byte) : (s.setV x b).mem = s.mem := rfl
@[simp] theorem State.setV_v (x : Nibble) (b : Byte) : (s.setV x b).v = s.v.set x.toNat b x.isLt := rfl
@[simp] theorem State.setV_i (x : Nibble) (b : Byte) : (s.setV x b).i = s.i := rfl
@[simp] theorem State.setV_pc (x : Nibble) (b : Byte) : (s.setV x b).pc = s.pc := rfl
@[simp] theorem State.setV_stack (x : Nibble) (b : Byte) : (s.setV x b).stack = s.stack := rfl
@[simp] theorem State.setV_sp (x : Nibble) (b : Byte) : (s.setV x b).sp = s.sp := rfl
@[simp] theorem State.setV_dt (x : Nibble) (b : Byte) : (s.setV x b).dt = s.dt := rfl
@[simp] theorem State.setV_st (x : Nibble) (b : Byte) : (s.setV x b).st = s.st := rfl
@[simp] theorem State.setV_fb (x : Nibble) (b : Byte) : (s.setV x b).fb = s.fb := rfl
@[simp] theorem State.setV_key (x : Nibble) (b : Byte) : (s.setV x b).key = s.key := rfl
@[simp] theorem State.setV_es (x : Nibble) (b : Byte) : (s.setV x b).es = s.es := rfl
@[simp] theorem State.setV_events (x : Nibble) (b : Byte) : (s.setV x b).events = s.events := rfl
@[simp] theorem State.setV_loadResult (x : Nibble) (b : Byte) : (s.setV x b).loadResult = s.loadResult := rfl
@[simp] theorem State.setV_ran (x : Nibble) (b : Byte) : (s.setV x b).ran = s.ran := rfl
@[simp] theorem State.setV_schedule (x : Nibble) (b : Byte) : (s.setV x b).schedule = s.schedule := rfl
@[simp] theorem State.setV_rnd (x : Nibble) (b : Byte) : (s.setV x b).rnd = s.rnd := rfl
@[simp] theorem State.setV_draws (x : Nibble) (b : Byte) : (s.setV x b).draws = s.draws := rfl
@[simp] theorem State.setV_readByte (x : Nibble) (b : Byte) (p : Nat) : (s.setV x b).readByte p = s.readByte p := rfl
@[simp] theorem State.setV_pixelAt (x : Nibble) (b : Byte) (px : Fin 64) (py : Fin 32) : (s.setV x b).pixelAt px py = s.pixelAt px py := rfl
@[simp] theorem State.setV_keyAt (x : Nibble) (b : Byte) (q : Nibble) : (s.setV x b).keyAt q = s.keyAt q := rfl

@[simp] theorem State.setFlag_mem (f : Bool) : (s.setFlag f).mem = s.mem := rfl
@[simp] theorem State.setFlag_v (f : Bool) : (s.setFlag f).v = s.v.set 15 (flagByte f) := rfl
@[simp] theorem State.setFlag_i (f : Bool) : (s.setFlag f).i = s.i := rfl
@[simp] theorem State.setFlag_pc (f : Bool) : (s.setFlag f).pc = s.pc := rfl
@[simp] theorem State.setFlag_stack (f : Bool) : (s.setFlag f).stack = s.stack := rfl
@[simp] theorem State.setFlag_sp (f : Bool) : (s.setFlag f).sp = s.sp := rfl
@[simp] theorem State.setFlag_dt (f : Bool) : (s.setFlag f).dt = s.dt := rfl
@[simp] theorem State.setFlag_st (f : Bool) : (s.setFlag f).st = s.st := rfl
@[simp] theorem State.setFlag_fb (f : Bool) : (s.setFlag f).fb = s.fb := rfl
@[simp] theorem State.setFlag_key (f : Bool) : (s.setFlag f).key = s.key := rfl
@[simp] theorem State.setFlag_es (f : Bool) : (s.setFlag f).es = s.es := rfl
@[simp] theorem State.setFlag_events (f : Bool) : (s.setFlag f).events = s.events := rfl
@[simp] theorem State.setFlag_loadResult (f : Bool) : (s.setFlag f).loadResult = s.loadResult := rfl
@[simp] theorem State.setFlag_ran (f : Bool) : (s.setFlag f).ran = s.ran := rfl
@[simp] theorem State.setFlag_schedule (f : Bool) : (s.setFlag f).schedule = s.schedule := rfl
@[simp] theorem State.setFlag_rnd (f : Bool) : (s.setFlag f).rnd = s.rnd := rfl
@[simp] theorem State.setFlag_draws (f : Bool) : (s.setFlag f).draws = s.draws := rfl
@[simp] theorem State.setFlag_readByte (f : Bool) (p : Nat) : (s.setFlag f).readByte p = s.readByte p := rfl
@[simp] theorem State.setFlag_pixelAt (f : Bool) (px : Fin 64) (py : Fin 32) : (s.setFlag f).pixelAt px py = s.pixelAt px py := rfl
@[simp] theorem State.setFlag_keyAt (f : Bool) (q : Nibble) : (s.setFlag f).keyAt q = s.keyAt q := rfl

@[simp] theorem State.setResult_mem (x : Nibble) (rf : Byte × Bool) : (s.setResult x rf).mem = s.mem := rfl
@[simp] theorem State.setResult_v (x : Nibble) (rf : Byte × Bool) : (s.setResult x rf).v = (s.v.set x.toNat rf.1 x.isLt).set 15 (flagByte rf.2) := rfl
@[simp] theorem State.setResult_i (x : Nibble) (rf : Byte × Bool) : (s.setResult x rf).i = s.i := rfl
@[simp] theorem State.setResult_pc (x : Nibble) (rf : Byte × Bool) : (s.setResult x rf).pc = s.pc := rfl
@[simp] theorem State.setResult_stack (x : Nibble) (rf : Byte × Bool) : (s.setResult x rf).stack = s.stack := rfl
@[simp] theorem State.setResult_sp (x : Nibble) (rf : Byte × Bool) : (s.setResult x rf).sp = s.sp := rfl
@[simp] theorem State.setResult_dt (x : Nibble) (rf : Byte × Bool) : (s.setResult x rf).dt = s.dt := rfl
@[simp] theorem State.setResult_st (x : Nibble) (rf : Byte × Bool) : (s.setResult x rf).st = s.st := rfl
@[simp] theorem State.setResult_fb (x : Nibble) (rf : Byte × Bool) : (s.setResult x rf).fb = s.fb := rfl
@[simp] theorem State.setResult_key (x : Nibble) (rf : Byte × Bool) : (s.setResult x rf).key = s.key := rfl
@[simp] theorem State.setResult_es (x : Nibble) (rf : Byte × Bool) : (s.setResult x rf).es = s.es := rfl
@[simp] theorem State.setResult_events (x : Nibble) (rf : Byte × Bool) : (s.setResult x rf).events = s.events := rfl
@[simp] theorem State.setResult_loadResult (x : Nibble) (rf : Byte × Bool) : (s.setResult x rf).loadResult = s.loadResult := rfl
@[simp] theorem State.setResult_ran (x : Nibble) (rf : Byte × Bool) : (s.setResult x rf).ran = s.ran := rfl
@[simp] theorem State.setResult_schedule (x : Nibble) (rf : Byte × Bool) : (s.setResult x rf).schedule = s.schedule := rfl
@[simp] theorem State.setResult_rnd (x : Nibble) (rf : Byte × Bool) : (s.setResult x rf).rnd = s.rnd := rfl
@[simp] theorem State.setResult_draws (x : Nibble) (rf : Byte × Bool) : (s.setResult x rf).draws = s.draws := rfl
@[simp] theorem State.setResult_readByte (x : Nibble) (rf : Byte × Bool) (p : Nat) : (s.setResult x rf).readByte p = s.readByte p := rfl
@[simp] theorem State.setResult_pixelAt (x : Nibble) (rf : Byte × Bool) (px : Fin 64) (py : Fin 32) : (s.setResult x rf).pixelAt px py = s.pixelAt px py := rfl
@[simp] theorem State.setResult_keyAt (x : Nibble) (rf : Byte × Bool) (q : Nibble) : (s.setResult x rf).keyAt q = s.keyAt q := rfl

@[simp] theorem State.setI_mem (w : Word) : (s.setI w).mem = s.mem := rfl
@[simp] theorem State.setI_v (w : Word) : (s.setI w).v = s.v := rfl
@[simp] theorem State.setI_i (w : Word) : (s.setI w).i = w := rfl
@[simp] theorem State.setI_pc (w : Word) : (s.setI w).pc = s.pc := rfl
@[simp] theorem State.setI_stack (w : Word) : (s.setI w).stack = s.stack := rfl
@[simp] theorem State.setI_sp (w : Word) : (s.setI w).sp = s.sp := rfl
@[simp] theorem State.setI_dt (w : Word) : (s.setI w).dt = s.dt := rfl
@[simp] theorem State.setI_st (w : Word) : (s.setI w).st = s.st := rfl
@[simp] theorem State.setI_fb (w : Word) : (s.setI w).fb = s.fb := rfl
@[simp] theorem State.setI_key (w : Word) : (s.setI w).key = s.key := rfl
@[simp] theorem State.setI_es (w : Word) : (s.setI w).es = s.es := rfl
@[simp] theorem State.setI_events (w : Word) : (s.setI w).events = s.events := rfl
@[simp] theorem State.setI_loadResult (w : Word) : (s.setI w).loadResult = s.loadResult := rfl
@[simp] theorem State.setI_ran (w : Word) : (s.setI w).ran = s.ran := rfl
@[simp] theorem State.setI_schedule (w : Word) : (s.setI w).schedule = s.schedule := rfl
@[simp] theorem State.setI_rnd (w : Word) : (s.setI w).rnd = s.rnd := rfl
@[simp] theorem State.setI_draws (w : Word) : (s.setI w).draws = s.draws := rfl
@[simp] theorem State.setI_reg (w : Word) (y : Nibble) : (s.setI w).reg y = s.reg y := rfl
@[simp] theorem State.setI_readByte (w : Word) (p : Nat) : (s.setI w).readByte p = s.readByte p := rfl
@[simp] theorem State.setI_pixelAt (w : Word) (px : Fin 64) (py : Fin 32) : (s.setI w).pixelAt px py = s.pixelAt px py := rfl
@[simp] theorem State.setI_keyAt (w : Word) (q : Nibble) : (s.setI w).keyAt q = s.keyAt q := rfl

@[simp] theorem State.setPc_mem (w : Word) : (s.setPc w).mem = s.mem := rfl
@[simp] theorem State.setPc_v (w : Word) : (s.setPc w).v = s.v := rfl
@[simp] theorem State.setPc_i (w : Word) : (s.setPc w).i = s.i := rfl
@[simp] theorem State.setPc_pc (w : Word) : (s.setPc w).pc = w := rfl
@[simp] theorem State.setPc_stack (w : Word) : (s.setPc w).stack = s.stack := rfl
@[simp] theorem State.setPc_sp (w : Word) : (s.setPc w).sp = s.sp := rfl
@[simp] theorem State.setPc_dt (w : Word) : (s.setPc w).dt = s.dt := rfl
@[simp] theorem State.setPc_st (w : Word) : (s.setPc w).st = s.st := rfl
@[simp] theorem State.setPc_fb (w : Word) : (s.setPc w).fb = s.fb := rfl
@[simp] theorem State.setPc_key (w : Word) : (s.setPc w).key = s.key := rfl
@[simp] theorem State.setPc_es (w : Word) : (s.setPc w).es = s.es := rfl
@[simp] theorem State.setPc_events (w : Word) : (s.setPc w).events = s.events := rfl
@[simp] theorem State.setPc_loadResult (w : Word) : (s.setPc w).loadResult = s.loadResult := rfl
@[simp] theorem State.setPc_ran (w : Word) : (s.setPc w).ran = s.ran := rfl
@[simp] theorem State.setPc_schedule (w : Word) : (s.setPc w).schedule = s.schedule := rfl
@[simp] theorem State.setPc_rnd (w : Word) : (s.setPc w).rnd = s.rnd := rfl
@[simp] theorem State.setPc_draws (w : Word) : (s.setPc w).draws = s.draws := rfl
@[simp] theorem State.setPc_reg (w : Word) (y : Nibble) : (s.setPc w).reg y = s.reg y := rfl
@[simp] theorem State.setPc_readByte (w : Word) (p : Nat) : (s.setPc w).readByte p = s.readByte p := rfl
@[simp] theorem State.setPc_pixelAt (w : Word) (px : Fin 64) (py : Fin 32) : (s.setPc w).pixelAt px py = s.pixelAt px py := rfl
@[simp] theorem State.setPc_keyAt (w : Word) (q : Nibble) : (s.setPc w).keyAt q = s.keyAt q := rfl

@[simp] theorem State.advancePc_mem : (s.advancePc).mem = s.mem := rfl
@[simp] theorem State.advancePc_v : (s.advancePc).v = s.v := rfl
@[simp] theorem State.advancePc_i : (s.advancePc).i = s.i := rfl
@[simp] theorem State.advancePc_pc : (s.advancePc).pc = s.pc + 2#16 := rfl
@[simp] theorem State.advancePc_stack : (s.advancePc).stack = s.stack := rfl
@[simp] theorem State.advancePc_sp : (s.advancePc).sp = s.sp := rfl
@[simp] theorem State.advancePc_dt : (s.advancePc).dt = s.dt := rfl
@[simp] theorem State.advancePc_st : (s.advancePc).st = s.st := rfl
@[simp] theorem State.advancePc_fb : (s.advancePc).fb = s.fb := rfl
@[simp] theorem State.advancePc_key : (s.advancePc).key = s.key := rfl
@[simp] theorem State.advancePc_es : (s.advancePc).es = s.es := rfl
@[simp] theorem State.advancePc_events : (s.advancePc).events = s.events := rfl
@[simp] theorem State.advancePc_loadResult : (s.advancePc).loadResult = s.loadResult := rfl
@[simp] theorem State.advancePc_ran : (s.advancePc).ran = s.ran := rfl
@[simp] theorem State.advancePc_schedule : (s.advancePc).schedule = s.schedule := rfl
@[simp] theorem State.advancePc_rnd : (s.advancePc).rnd = s.rnd := rfl
@[simp] theorem State.advancePc_draws : (s.advancePc).draws = s.draws := rfl
@[simp] theorem State.advancePc_reg (y : Nibble) : (s.advancePc).reg y = s.reg y := rfl
@[simp] theorem State.advancePc_readByte (p : Nat) : (s.advancePc).readByte p = s.readByte p := rfl
@[simp] theorem State.advancePc_pixelAt (px : Fin 64) (py : Fin 32) : (s.advancePc).pixelAt px py = s.pixelAt px py := rfl
@[simp] theorem State.advancePc_keyAt (q : Nibble) : (s.advancePc).keyAt q = s.keyAt q := rfl

@[simp] theorem State.setDt_mem (b : Byte) : (s.setDt b).mem = s.mem := rfl
@[simp] theorem State.setDt_v (b : Byte) : (s.setDt b).v = s.v := rfl
@[simp] theorem State.setDt_i (b : Byte) : (s.setDt b).i = s.i := rfl
@[simp] theorem State.setDt_pc (b : Byte) : (s.setDt b).pc = s.pc := rfl
@[simp] theorem State.setDt_stack (b : Byte) : (s.setDt b).stack = s.stack := rfl
@[simp] theorem State.setDt_sp (b : Byte) : (s.setDt b).sp = s.sp := rfl
@[simp] theorem State.setDt_dt (b : Byte) : (s.setDt b).dt = b := rfl
@[simp] theorem State.setDt_st (b : Byte) : (s.setDt b).st = s.st := rfl
@[simp] theorem State.setDt_fb (b : Byte) : (s.setDt b).fb = s.fb := rfl
@[simp] theorem State.setDt_key (b : Byte) : (s.setDt b).key = s.key := rfl
@[simp] theorem State.setDt_es (b : Byte) : (s.setDt b).es = s.es := rfl
@[simp] theorem State.setDt_events (b : Byte) : (s.setDt b).events = s.events := rfl
@[simp] theorem State.setDt_loadResult (b : Byte) : (s.setDt b).loadResult = s.loadResult := rfl
@[simp] theorem State.setDt_ran (b : Byte) : (s.setDt b).ran = s.ran := rfl
@[simp] theorem State.setDt_schedule (b : Byte) : (s.setDt b).schedule = s.schedule := rfl
@[simp] theorem State.setDt_rnd (b : Byte) : (s.setDt b).rnd = s.rnd := rfl
@[simp] theorem State.setDt_draws (b : Byte) : (s.setDt b).draws = s.draws := rfl
@[simp] theorem State.setDt_reg (b : Byte) (y : Nibble) : (s.setDt b).reg y = s.reg y := rfl
@[simp] theorem State.setDt_readByte (b : Byte) (p : Nat) : (s.setDt b).readByte p = s.readByte p := rfl
@[simp] theorem State.setDt_pixelAt (b : Byte) (px : Fin 64) (py : Fin 32) : (s.setDt b).pixelAt px py = s.pixelAt px py := rfl
@[simp] theorem State.setDt_keyAt (b : Byte) (q : Nibble) : (s.setDt b).keyAt q = s.keyAt q := rfl

@[simp] theorem State.setSt_mem (b : Byte) : (s.setSt b).mem = s.mem := rfl
@[simp] theorem State.setSt_v (b : Byte) : (s.setSt b).v = s.v := rfl
@[simp] theorem State.setSt_i (b : Byte) : (s.setSt b).i = s.i := rfl
@[simp] theorem State.setSt_pc (b : Byte) : (s.setSt b).pc = s.pc := rfl
@[simp] theorem State.setSt_stack (b : Byte) : (s.setSt b).stack = s.stack := rfl
@[simp] theorem State.setSt_sp (b : Byte) : (s.setSt b).sp = s.sp := rfl
@[simp] theorem State.setSt_dt (b : Byte) : (s.setSt b).dt = s.dt := rfl
@[simp] theorem State.setSt_st (b : Byte) : (s.setSt b).st = b := rfl
@[simp] theorem State.setSt_fb (b : Byte) : (s.setSt b).fb = s.fb := rfl
@[simp] theorem State.setSt_key (b : Byte) : (s.setSt b).key = s.key := rfl
@[simp] theorem State.setSt_es (b : Byte) : (s.setSt b).es = s.es := rfl
@[simp] theorem State.setSt_events (b : Byte) : (s.setSt b).events = s.events := rfl
@[simp] theorem State.setSt_loadResult (b : Byte) : (s.setSt b).loadResult = s.loadResult := rfl
@[simp] theorem State.setSt_ran (b : Byte) : (s.setSt b).ran = s.ran := rfl
@[simp] theorem State.setSt_schedule (b : Byte) : (s.setSt b).schedule = s.schedule := rfl
@[simp] theorem State.setSt_rnd (b : Byte) : (s.setSt b).rnd = s.rnd := rfl
@[simp] theorem State.setSt_draws (b : Byte) : (s.setSt b).draws = s.draws := rfl
@[simp] theorem State.setSt_reg (b : Byte) (y : Nibble) : (s.setSt b).reg y = s.reg y := rfl
@[simp] theorem State.setSt_readByte (b : Byte) (p : Nat) : (s.setSt b).readByte p = s.readByte p := rfl
@[simp] theorem State.setSt_pixelAt (b : Byte) (px : Fin 64) (py : Fin 32) : (s.setSt b).pixelAt px py = s.pixelAt px py := rfl
@[simp] theorem State.setSt_keyAt (b : Byte) (q : Nibble) : (s.setSt b).keyAt q = s.keyAt q := rfl

@[simp] theorem State.setFb_mem (fb : Framebuffer) : (s.setFb fb).mem = s.mem := rfl
@[simp] theorem State.setFb_v (fb : Framebuffer) : (s.setFb fb).v = s.v := rfl
@[simp] theorem State.setFb_i (fb : Framebuffer) : (s.setFb fb).i = s.i := rfl
@[simp] theorem State.setFb_pc (fb : Framebuffer) : (s.setFb fb).pc = s.pc := rfl
@[simp] theorem State.setFb_stack (fb : Framebuffer) : (s.setFb fb).stack = s.stack := rfl
@[simp] theorem State.setFb_sp (fb : Framebuffer) : (s.setFb fb).sp = s.sp := rfl
@[simp] theorem State.setFb_dt (fb : Framebuffer) : (s.setFb fb).dt = s.dt := rfl
@[simp] theorem State.setFb_st (fb : Framebuffer) : (s.setFb fb).st = s.st := rfl
@[simp] theorem State.setFb_fb (fb : Framebuffer) : (s.setFb fb).fb = fb := rfl
@[simp] theorem State.setFb_key (fb : Framebuffer) : (s.setFb fb).key = s.key := rfl
@[simp] theorem State.setFb_es (fb : Framebuffer) : (s.setFb fb).es = s.es := rfl
@[simp] theorem State.setFb_events (fb : Framebuffer) : (s.setFb fb).events = s.events := rfl
@[simp] theorem State.setFb_loadResult (fb : Framebuffer) : (s.setFb fb).loadResult = s.loadResult := rfl
@[simp] theorem State.setFb_ran (fb : Framebuffer) : (s.setFb fb).ran = s.ran := rfl
@[simp] theorem State.setFb_schedule (fb : Framebuffer) : (s.setFb fb).schedule = s.schedule := rfl
@[simp] theorem State.setFb_rnd (fb : Framebuffer) : (s.setFb fb).rnd = s.rnd := rfl
@[simp] theorem State.setFb_draws (fb : Framebuffer) : (s.setFb fb).draws = s.draws := rfl
@[simp] theorem State.setFb_reg (fb : Framebuffer) (y : Nibble) : (s.setFb fb).reg y = s.reg y := rfl
@[simp] theorem State.setFb_readByte (fb : Framebuffer) (p : Nat) : (s.setFb fb).readByte p = s.readByte p := rfl
@[simp] theorem State.setFb_keyAt (fb : Framebuffer) (q : Nibble) : (s.setFb fb).keyAt q = s.keyAt q := rfl

@[simp] theorem State.setKey_mem (k : Nibble) (b : Bool) : (s.setKey k b).mem = s.mem := rfl
@[simp] theorem State.setKey_v (k : Nibble) (b : Bool) : (s.setKey k b).v = s.v := rfl
@[simp] theorem State.setKey_i (k : Nibble) (b : Bool) : (s.setKey k b).i = s.i := rfl
@[simp] theorem State.setKey_pc (k : Nibble) (b : Bool) : (s.setKey k b).pc = s.pc := rfl
@[simp] theorem State.setKey_stack (k : Nibble) (b : Bool) : (s.setKey k b).stack = s.stack := rfl
@[simp] theorem State.setKey_sp (k : Nibble) (b : Bool) : (s.setKey k b).sp = s.sp := rfl
@[simp] theorem State.setKey_dt (k : Nibble) (b : Bool) : (s.setKey k b).dt = s.dt := rfl
@[simp] theorem State.setKey_st (k : Nibble) (b : Bool) : (s.setKey k b).st = s.st := rfl
@[simp] theorem State.setKey_fb (k : Nibble) (b : Bool) : (s.setKey k b).fb = s.fb := rfl
@[simp] theorem State.setKey_key (k : Nibble) (b : Bool) : (s.setKey k b).key = s.key.set k.toNat b k.isLt := rfl
@[simp] theorem State.setKey_es (k : Nibble) (b : Bool) : (s.setKey k b).es = s.es := rfl
@[simp] theorem State.setKey_events (k : Nibble) (b : Bool) : (s.setKey k b).events = s.events := rfl
@[simp] theorem State.setKey_loadResult (k : Nibble) (b : Bool) : (s.setKey k b).loadResult = s.loadResult := rfl
@[simp] theorem State.setKey_ran (k : Nibble) (b : Bool) : (s.setKey k b).ran = s.ran := rfl
@[simp] theorem State.setKey_schedule (k : Nibble) (b : Bool) : (s.setKey k b).schedule = s.schedule := rfl
@[simp] theorem State.setKey_rnd (k : Nibble) (b : Bool) : (s.setKey k b).rnd = s.rnd := rfl
@[simp] theorem State.setKey_draws (k : Nibble) (b : Bool) : (s.setKey k b).draws = s.draws := rfl
@[simp] theorem State.setKey_reg (k : Nibble) (b : Bool) (y : Nibble) : (s.setKey k b).reg y = s.reg y := rfl
@[simp] theorem State.setKey_readByte (k : Nibble) (b : Bool) (p : Nat) : (s.setKey k b).readByte p = s.readByte p := rfl
@[simp] theorem State.setKey_pixelAt (k : Nibble) (b : Bool) (px : Fin 64) (py : Fin 32) : (s.setKey k b).pixelAt px py = s.pixelAt px py := rfl

@[simp] theorem State.setEs_mem (e : EngineState) : (s.setEs e).mem = s.mem := rfl
@[simp] theorem State.setEs_v (e : EngineState) : (s.setEs e).v = s.v := rfl
@[simp] theorem State.setEs_i (e : EngineState) : (s.setEs e).i = s.i := rfl
@[simp] theorem State.setEs_pc (e : EngineState) : (s.setEs e).pc = s.pc := rfl
@[simp] theorem State.setEs_stack (e : EngineState) : (s.setEs e).stack = s.stack := rfl
@[simp] theorem State.setEs_sp (e : EngineState) : (s.setEs e).sp = s.sp := rfl
@[simp] theorem State.setEs_dt (e : EngineState) : (s.setEs e).dt = s.dt := rfl
@[simp] theorem State.setEs_st (e : EngineState) : (s.setEs e).st = s.st := rfl
@[simp] theorem State.setEs_fb (e : EngineState) : (s.setEs e).fb = s.fb := rfl
@[simp] theorem State.setEs_key (e : EngineState) : (s.setEs e).key = s.key := rfl
@[simp] theorem State.setEs_es (e : EngineState) : (s.setEs e).es = e := rfl
@[simp] theorem State.setEs_events (e : EngineState) : (s.setEs e).events = s.events := rfl
@[simp] theorem State.setEs_loadResult (e : EngineState) : (s.setEs e).loadResult = s.loadResult := rfl
@[simp] theorem State.setEs_ran (e : EngineState) : (s.setEs e).ran = s.ran := rfl
@[simp] theorem State.setEs_schedule (e : EngineState) : (s.setEs e).schedule = s.schedule := rfl
@[simp] theorem State.setEs_rnd (e : EngineState) : (s.setEs e).rnd = s.rnd := rfl
@[simp] theorem State.setEs_draws (e : EngineState) : (s.setEs e).draws = s.draws := rfl
@[simp] theorem State.setEs_reg (e : EngineState) (y : Nibble) : (s.setEs e).reg y = s.reg y := rfl
@[simp] theorem State.setEs_readByte (e : EngineState) (p : Nat) : (s.setEs e).readByte p = s.readByte p := rfl
@[simp] theorem State.setEs_pixelAt (e : EngineState) (px : Fin 64) (py : Fin 32) : (s.setEs e).pixelAt px py = s.pixelAt px py := rfl
@[simp] theorem State.setEs_keyAt (e : EngineState) (q : Nibble) : (s.setEs e).keyAt q = s.keyAt q := rfl

@[simp] theorem State.raiseHalt_mem (r : HaltReason) : (s.raiseHalt r).mem = s.mem := rfl
@[simp] theorem State.raiseHalt_v (r : HaltReason) : (s.raiseHalt r).v = s.v := rfl
@[simp] theorem State.raiseHalt_i (r : HaltReason) : (s.raiseHalt r).i = s.i := rfl
@[simp] theorem State.raiseHalt_pc (r : HaltReason) : (s.raiseHalt r).pc = s.pc := rfl
@[simp] theorem State.raiseHalt_stack (r : HaltReason) : (s.raiseHalt r).stack = s.stack := rfl
@[simp] theorem State.raiseHalt_sp (r : HaltReason) : (s.raiseHalt r).sp = s.sp := rfl
@[simp] theorem State.raiseHalt_dt (r : HaltReason) : (s.raiseHalt r).dt = s.dt := rfl
@[simp] theorem State.raiseHalt_st (r : HaltReason) : (s.raiseHalt r).st = s.st := rfl
@[simp] theorem State.raiseHalt_fb (r : HaltReason) : (s.raiseHalt r).fb = s.fb := rfl
@[simp] theorem State.raiseHalt_key (r : HaltReason) : (s.raiseHalt r).key = s.key := rfl
@[simp] theorem State.raiseHalt_es (r : HaltReason) : (s.raiseHalt r).es = .halted r := rfl
@[simp] theorem State.raiseHalt_events (r : HaltReason) : (s.raiseHalt r).events = s.events := rfl
@[simp] theorem State.raiseHalt_loadResult (r : HaltReason) : (s.raiseHalt r).loadResult = s.loadResult := rfl
@[simp] theorem State.raiseHalt_ran (r : HaltReason) : (s.raiseHalt r).ran = s.ran := rfl
@[simp] theorem State.raiseHalt_schedule (r : HaltReason) : (s.raiseHalt r).schedule = s.schedule := rfl
@[simp] theorem State.raiseHalt_rnd (r : HaltReason) : (s.raiseHalt r).rnd = s.rnd := rfl
@[simp] theorem State.raiseHalt_draws (r : HaltReason) : (s.raiseHalt r).draws = s.draws := rfl
@[simp] theorem State.raiseHalt_reg (r : HaltReason) (y : Nibble) : (s.raiseHalt r).reg y = s.reg y := rfl
@[simp] theorem State.raiseHalt_readByte (r : HaltReason) (p : Nat) : (s.raiseHalt r).readByte p = s.readByte p := rfl
@[simp] theorem State.raiseHalt_pixelAt (r : HaltReason) (px : Fin 64) (py : Fin 32) : (s.raiseHalt r).pixelAt px py = s.pixelAt px py := rfl
@[simp] theorem State.raiseHalt_keyAt (r : HaltReason) (q : Nibble) : (s.raiseHalt r).keyAt q = s.keyAt q := rfl

@[simp] theorem State.setMem_mem (m : Memory) : (s.setMem m).mem = m := rfl
@[simp] theorem State.setMem_v (m : Memory) : (s.setMem m).v = s.v := rfl
@[simp] theorem State.setMem_i (m : Memory) : (s.setMem m).i = s.i := rfl
@[simp] theorem State.setMem_pc (m : Memory) : (s.setMem m).pc = s.pc := rfl
@[simp] theorem State.setMem_stack (m : Memory) : (s.setMem m).stack = s.stack := rfl
@[simp] theorem State.setMem_sp (m : Memory) : (s.setMem m).sp = s.sp := rfl
@[simp] theorem State.setMem_dt (m : Memory) : (s.setMem m).dt = s.dt := rfl
@[simp] theorem State.setMem_st (m : Memory) : (s.setMem m).st = s.st := rfl
@[simp] theorem State.setMem_fb (m : Memory) : (s.setMem m).fb = s.fb := rfl
@[simp] theorem State.setMem_key (m : Memory) : (s.setMem m).key = s.key := rfl
@[simp] theorem State.setMem_es (m : Memory) : (s.setMem m).es = s.es := rfl
@[simp] theorem State.setMem_events (m : Memory) : (s.setMem m).events = s.events := rfl
@[simp] theorem State.setMem_loadResult (m : Memory) : (s.setMem m).loadResult = s.loadResult := rfl
@[simp] theorem State.setMem_ran (m : Memory) : (s.setMem m).ran = s.ran := rfl
@[simp] theorem State.setMem_schedule (m : Memory) : (s.setMem m).schedule = s.schedule := rfl
@[simp] theorem State.setMem_rnd (m : Memory) : (s.setMem m).rnd = s.rnd := rfl
@[simp] theorem State.setMem_draws (m : Memory) : (s.setMem m).draws = s.draws := rfl
@[simp] theorem State.setMem_reg (m : Memory) (y : Nibble) : (s.setMem m).reg y = s.reg y := rfl
@[simp] theorem State.setMem_pixelAt (m : Memory) (px : Fin 64) (py : Fin 32) : (s.setMem m).pixelAt px py = s.pixelAt px py := rfl
@[simp] theorem State.setMem_keyAt (m : Memory) (q : Nibble) : (s.setMem m).keyAt q = s.keyAt q := rfl

@[simp] theorem State.writeByte_mem (a : Nat) (b : Byte) : (s.writeByte a b).mem = Memory.write s.mem a b := rfl
@[simp] theorem State.writeByte_v (a : Nat) (b : Byte) : (s.writeByte a b).v = s.v := rfl
@[simp] theorem State.writeByte_i (a : Nat) (b : Byte) : (s.writeByte a b).i = s.i := rfl
@[simp] theorem State.writeByte_pc (a : Nat) (b : Byte) : (s.writeByte a b).pc = s.pc := rfl
@[simp] theorem State.writeByte_stack (a : Nat) (b : Byte) : (s.writeByte a b).stack = s.stack := rfl
@[simp] theorem State.writeByte_sp (a : Nat) (b : Byte) : (s.writeByte a b).sp = s.sp := rfl
@[simp] theorem State.writeByte_dt (a : Nat) (b : Byte) : (s.writeByte a b).dt = s.dt := rfl
@[simp] theorem State.writeByte_st (a : Nat) (b : Byte) : (s.writeByte a b).st = s.st := rfl
@[simp] theorem State.writeByte_fb (a : Nat) (b : Byte) : (s.writeByte a b).fb = s.fb := rfl
@[simp] theorem State.writeByte_key (a : Nat) (b : Byte) : (s.writeByte a b).key = s.key := rfl
@[simp] theorem State.writeByte_es (a : Nat) (b : Byte) : (s.writeByte a b).es = s.es := rfl
@[simp] theorem State.writeByte_events (a : Nat) (b : Byte) : (s.writeByte a b).events = s.events := rfl
@[simp] theorem State.writeByte_loadResult (a : Nat) (b : Byte) : (s.writeByte a b).loadResult = s.loadResult := rfl
@[simp] theorem State.writeByte_ran (a : Nat) (b : Byte) : (s.writeByte a b).ran = s.ran := rfl
@[simp] theorem State.writeByte_schedule (a : Nat) (b : Byte) : (s.writeByte a b).schedule = s.schedule := rfl
@[simp] theorem State.writeByte_rnd (a : Nat) (b : Byte) : (s.writeByte a b).rnd = s.rnd := rfl
@[simp] theorem State.writeByte_draws (a : Nat) (b : Byte) : (s.writeByte a b).draws = s.draws := rfl
@[simp] theorem State.writeByte_reg (a : Nat) (b : Byte) (y : Nibble) : (s.writeByte a b).reg y = s.reg y := rfl
@[simp] theorem State.writeByte_pixelAt (a : Nat) (b : Byte) (px : Fin 64) (py : Fin 32) : (s.writeByte a b).pixelAt px py = s.pixelAt px py := rfl
@[simp] theorem State.writeByte_keyAt (a : Nat) (b : Byte) (q : Nibble) : (s.writeByte a b).keyAt q = s.keyAt q := rfl

@[simp] theorem State.emit_mem (e : Event) : (s.emit e).mem = s.mem := rfl
@[simp] theorem State.emit_v (e : Event) : (s.emit e).v = s.v := rfl
@[simp] theorem State.emit_i (e : Event) : (s.emit e).i = s.i := rfl
@[simp] theorem State.emit_pc (e : Event) : (s.emit e).pc = s.pc := rfl
@[simp] theorem State.emit_stack (e : Event) : (s.emit e).stack = s.stack := rfl
@[simp] theorem State.emit_sp (e : Event) : (s.emit e).sp = s.sp := rfl
@[simp] theorem State.emit_dt (e : Event) : (s.emit e).dt = s.dt := rfl
@[simp] theorem State.emit_st (e : Event) : (s.emit e).st = s.st := rfl
@[simp] theorem State.emit_fb (e : Event) : (s.emit e).fb = s.fb := rfl
@[simp] theorem State.emit_key (e : Event) : (s.emit e).key = s.key := rfl
@[simp] theorem State.emit_es (e : Event) : (s.emit e).es = s.es := rfl
@[simp] theorem State.emit_events (e : Event) : (s.emit e).events = s.events ++ [e] := rfl
@[simp] theorem State.emit_loadResult (e : Event) : (s.emit e).loadResult = s.loadResult := rfl
@[simp] theorem State.emit_ran (e : Event) : (s.emit e).ran = s.ran := rfl
@[simp] theorem State.emit_schedule (e : Event) : (s.emit e).schedule = s.schedule := rfl
@[simp] theorem State.emit_rnd (e : Event) : (s.emit e).rnd = s.rnd := rfl
@[simp] theorem State.emit_draws (e : Event) : (s.emit e).draws = s.draws := rfl
@[simp] theorem State.emit_reg (e : Event) (y : Nibble) : (s.emit e).reg y = s.reg y := rfl
@[simp] theorem State.emit_readByte (e : Event) (p : Nat) : (s.emit e).readByte p = s.readByte p := rfl
@[simp] theorem State.emit_pixelAt (e : Event) (px : Fin 64) (py : Fin 32) : (s.emit e).pixelAt px py = s.pixelAt px py := rfl
@[simp] theorem State.emit_keyAt (e : Event) (q : Nibble) : (s.emit e).keyAt q = s.keyAt q := rfl

@[simp] theorem State.reportUnknown_mem (a w : Word) : (s.reportUnknown a w).mem = s.mem := rfl
@[simp] theorem State.reportUnknown_v (a w : Word) : (s.reportUnknown a w).v = s.v := rfl
@[simp] theorem State.reportUnknown_i (a w : Word) : (s.reportUnknown a w).i = s.i := rfl
@[simp] theorem State.reportUnknown_pc (a w : Word) : (s.reportUnknown a w).pc = s.pc := rfl
@[simp] theorem State.reportUnknown_stack (a w : Word) : (s.reportUnknown a w).stack = s.stack := rfl
@[simp] theorem State.reportUnknown_sp (a w : Word) : (s.reportUnknown a w).sp = s.sp := rfl
@[simp] theorem State.reportUnknown_dt (a w : Word) : (s.reportUnknown a w).dt = s.dt := rfl
@[simp] theorem State.reportUnknown_st (a w : Word) : (s.reportUnknown a w).st = s.st := rfl
@[simp] theorem State.reportUnknown_fb (a w : Word) : (s.reportUnknown a w).fb = s.fb := rfl
@[simp] theorem State.reportUnknown_key (a w : Word) : (s.reportUnknown a w).key = s.key := rfl
@[simp] theorem State.reportUnknown_es (a w : Word) : (s.reportUnknown a w).es = s.es := rfl
@[simp] theorem State.reportUnknown_events (a w : Word) : (s.reportUnknown a w).events = s.events ++ [.unknownOpcode a w] := rfl
@[simp] theorem State.reportUnknown_loadResult (a w : Word) : (s.reportUnknown a w).loadResult = s.loadResult := rfl
@[simp] theorem State.reportUnknown_ran (a w : Word) : (s.reportUnknown a w).ran = s.ran := rfl
@[simp] theorem State.reportUnknown_schedule (a w : Word) : (s.reportUnknown a w).schedule = s.schedule := rfl
@[simp] theorem State.reportUnknown_rnd (a w : Word) : (s.reportUnknown a w).rnd = s.rnd := rfl
@[simp] theorem State.reportUnknown_draws (a w : Word) : (s.reportUnknown a w).draws = s.draws := rfl
@[simp] theorem State.reportUnknown_reg (a w : Word) (y : Nibble) : (s.reportUnknown a w).reg y = s.reg y := rfl
@[simp] theorem State.reportUnknown_readByte (a w : Word) (p : Nat) : (s.reportUnknown a w).readByte p = s.readByte p := rfl
@[simp] theorem State.reportUnknown_pixelAt (a w : Word) (px : Fin 64) (py : Fin 32) : (s.reportUnknown a w).pixelAt px py = s.pixelAt px py := rfl
@[simp] theorem State.reportUnknown_keyAt (a w : Word) (q : Nibble) : (s.reportUnknown a w).keyAt q = s.keyAt q := rfl

@[simp] theorem State.setSchedule_mem (ops : List HostOp) : (s.setSchedule ops).mem = s.mem := rfl
@[simp] theorem State.setSchedule_v (ops : List HostOp) : (s.setSchedule ops).v = s.v := rfl
@[simp] theorem State.setSchedule_i (ops : List HostOp) : (s.setSchedule ops).i = s.i := rfl
@[simp] theorem State.setSchedule_pc (ops : List HostOp) : (s.setSchedule ops).pc = s.pc := rfl
@[simp] theorem State.setSchedule_stack (ops : List HostOp) : (s.setSchedule ops).stack = s.stack := rfl
@[simp] theorem State.setSchedule_sp (ops : List HostOp) : (s.setSchedule ops).sp = s.sp := rfl
@[simp] theorem State.setSchedule_dt (ops : List HostOp) : (s.setSchedule ops).dt = s.dt := rfl
@[simp] theorem State.setSchedule_st (ops : List HostOp) : (s.setSchedule ops).st = s.st := rfl
@[simp] theorem State.setSchedule_fb (ops : List HostOp) : (s.setSchedule ops).fb = s.fb := rfl
@[simp] theorem State.setSchedule_key (ops : List HostOp) : (s.setSchedule ops).key = s.key := rfl
@[simp] theorem State.setSchedule_es (ops : List HostOp) : (s.setSchedule ops).es = s.es := rfl
@[simp] theorem State.setSchedule_events (ops : List HostOp) : (s.setSchedule ops).events = s.events := rfl
@[simp] theorem State.setSchedule_loadResult (ops : List HostOp) : (s.setSchedule ops).loadResult = s.loadResult := rfl
@[simp] theorem State.setSchedule_ran (ops : List HostOp) : (s.setSchedule ops).ran = s.ran := rfl
@[simp] theorem State.setSchedule_schedule (ops : List HostOp) : (s.setSchedule ops).schedule = ops := rfl
@[simp] theorem State.setSchedule_rnd (ops : List HostOp) : (s.setSchedule ops).rnd = s.rnd := rfl
@[simp] theorem State.setSchedule_draws (ops : List HostOp) : (s.setSchedule ops).draws = s.draws := rfl
@[simp] theorem State.setSchedule_reg (ops : List HostOp) (y : Nibble) : (s.setSchedule ops).reg y = s.reg y := rfl
@[simp] theorem State.setSchedule_readByte (ops : List HostOp) (p : Nat) : (s.setSchedule ops).readByte p = s.readByte p := rfl
@[simp] theorem State.setSchedule_pixelAt (ops : List HostOp) (px : Fin 64) (py : Fin 32) : (s.setSchedule ops).pixelAt px py = s.pixelAt px py := rfl
@[simp] theorem State.setSchedule_keyAt (ops : List HostOp) (q : Nibble) : (s.setSchedule ops).keyAt q = s.keyAt q := rfl

@[simp] theorem State.clearOutputs_mem : (s.clearOutputs).mem = s.mem := rfl
@[simp] theorem State.clearOutputs_v : (s.clearOutputs).v = s.v := rfl
@[simp] theorem State.clearOutputs_i : (s.clearOutputs).i = s.i := rfl
@[simp] theorem State.clearOutputs_pc : (s.clearOutputs).pc = s.pc := rfl
@[simp] theorem State.clearOutputs_stack : (s.clearOutputs).stack = s.stack := rfl
@[simp] theorem State.clearOutputs_sp : (s.clearOutputs).sp = s.sp := rfl
@[simp] theorem State.clearOutputs_dt : (s.clearOutputs).dt = s.dt := rfl
@[simp] theorem State.clearOutputs_st : (s.clearOutputs).st = s.st := rfl
@[simp] theorem State.clearOutputs_fb : (s.clearOutputs).fb = s.fb := rfl
@[simp] theorem State.clearOutputs_key : (s.clearOutputs).key = s.key := rfl
@[simp] theorem State.clearOutputs_es : (s.clearOutputs).es = s.es := rfl
@[simp] theorem State.clearOutputs_events : (s.clearOutputs).events = [] := rfl
@[simp] theorem State.clearOutputs_loadResult : (s.clearOutputs).loadResult = none := rfl
@[simp] theorem State.clearOutputs_ran : (s.clearOutputs).ran = s.ran := rfl
@[simp] theorem State.clearOutputs_schedule : (s.clearOutputs).schedule = s.schedule := rfl
@[simp] theorem State.clearOutputs_rnd : (s.clearOutputs).rnd = s.rnd := rfl
@[simp] theorem State.clearOutputs_draws : (s.clearOutputs).draws = s.draws := rfl
@[simp] theorem State.clearOutputs_reg (y : Nibble) : (s.clearOutputs).reg y = s.reg y := rfl
@[simp] theorem State.clearOutputs_readByte (p : Nat) : (s.clearOutputs).readByte p = s.readByte p := rfl
@[simp] theorem State.clearOutputs_pixelAt (px : Fin 64) (py : Fin 32) : (s.clearOutputs).pixelAt px py = s.pixelAt px py := rfl
@[simp] theorem State.clearOutputs_keyAt (q : Nibble) : (s.clearOutputs).keyAt q = s.keyAt q := rfl

@[simp] theorem State.beginCycle_mem (r : Option Byte) : (s.beginCycle r).mem = s.mem := rfl
@[simp] theorem State.beginCycle_v (r : Option Byte) : (s.beginCycle r).v = s.v := rfl
@[simp] theorem State.beginCycle_i (r : Option Byte) : (s.beginCycle r).i = s.i := rfl
@[simp] theorem State.beginCycle_pc (r : Option Byte) : (s.beginCycle r).pc = s.pc + 2#16 := rfl
@[simp] theorem State.beginCycle_stack (r : Option Byte) : (s.beginCycle r).stack = s.stack := rfl
@[simp] theorem State.beginCycle_sp (r : Option Byte) : (s.beginCycle r).sp = s.sp := rfl
@[simp] theorem State.beginCycle_dt (r : Option Byte) : (s.beginCycle r).dt = s.dt := rfl
@[simp] theorem State.beginCycle_st (r : Option Byte) : (s.beginCycle r).st = s.st := rfl
@[simp] theorem State.beginCycle_fb (r : Option Byte) : (s.beginCycle r).fb = s.fb := rfl
@[simp] theorem State.beginCycle_key (r : Option Byte) : (s.beginCycle r).key = s.key := rfl
@[simp] theorem State.beginCycle_es (r : Option Byte) : (s.beginCycle r).es = s.es := rfl
@[simp] theorem State.beginCycle_events (r : Option Byte) : (s.beginCycle r).events = [] := rfl
@[simp] theorem State.beginCycle_loadResult (r : Option Byte) : (s.beginCycle r).loadResult = none := rfl
@[simp] theorem State.beginCycle_ran (r : Option Byte) : (s.beginCycle r).ran = true := rfl
@[simp] theorem State.beginCycle_schedule (r : Option Byte) : (s.beginCycle r).schedule = s.schedule := rfl
@[simp] theorem State.beginCycle_rnd (r : Option Byte) : (s.beginCycle r).rnd = r := rfl
@[simp] theorem State.beginCycle_draws (r : Option Byte) : (s.beginCycle r).draws = s.draws := rfl
@[simp] theorem State.beginCycle_reg (r : Option Byte) (y : Nibble) : (s.beginCycle r).reg y = s.reg y := rfl
@[simp] theorem State.beginCycle_readByte (r : Option Byte) (p : Nat) : (s.beginCycle r).readByte p = s.readByte p := rfl
@[simp] theorem State.beginCycle_pixelAt (r : Option Byte) (px : Fin 64) (py : Fin 32) : (s.beginCycle r).pixelAt px py = s.pixelAt px py := rfl
@[simp] theorem State.beginCycle_keyAt (r : Option Byte) (q : Nibble) : (s.beginCycle r).keyAt q = s.keyAt q := rfl

@[simp] theorem State.skipIf_mem (c : Bool) : (s.skipIf c).mem = s.mem := by cases c <;> rfl
@[simp] theorem State.skipIf_v (c : Bool) : (s.skipIf c).v = s.v := by cases c <;> rfl
@[simp] theorem State.skipIf_i (c : Bool) : (s.skipIf c).i = s.i := by cases c <;> rfl
@[simp] theorem State.skipIf_pc (c : Bool) : (s.skipIf c).pc = if c then s.pc + 2#16 else s.pc := by cases c <;> rfl
@[simp] theorem State.skipIf_stack (c : Bool) : (s.skipIf c).stack = s.stack := by cases c <;> rfl
@[simp] theorem State.skipIf_sp (c : Bool) : (s.skipIf c).sp = s.sp := by cases c <;> rfl
@[simp] theorem State.skipIf_dt (c : Bool) : (s.skipIf c).dt = s.dt := by cases c <;> rfl
@[simp] theorem State.skipIf_st (c : Bool) : (s.skipIf c).st = s.st := by cases c <;> rfl
@[simp] theorem State.skipIf_fb (c : Bool) : (s.skipIf c).fb = s.fb := by cases c <;> rfl
@[simp] theorem State.skipIf_key (c : Bool) : (s.skipIf c).key = s.key := by cases c <;> rfl
@[simp] theorem State.skipIf_es (c : Bool) : (s.skipIf c).es = s.es := by cases c <;> rfl
@[simp] theorem State.skipIf_events (c : Bool) : (s.skipIf c).events = s.events := by cases c <;> rfl
@[simp] theorem State.skipIf_loadResult (c : Bool) : (s.skipIf c).loadResult = s.loadResult := by cases c <;> rfl
@[simp] theorem State.skipIf_ran (c : Bool) : (s.skipIf c).ran = s.ran := by cases c <;> rfl
@[simp] theorem State.skipIf_schedule (c : Bool) : (s.skipIf c).schedule = s.schedule := by cases c <;> rfl
@[simp] theorem State.skipIf_rnd (c : Bool) : (s.skipIf c).rnd = s.rnd := by cases c <;> rfl
@[simp] theorem State.skipIf_draws (c : Bool) : (s.skipIf c).draws = s.draws := by cases c <;> rfl
@[simp] theorem State.skipIf_reg (c : Bool) (y : Nibble) : (s.skipIf c).reg y = s.reg y := by cases c <;> rfl
@[simp] theorem State.skipIf_readByte (c : Bool) (p : Nat) : (s.skipIf c).readByte p = s.readByte p := by cases c <;> rfl
@[simp] theorem State.skipIf_pixelAt (c : Bool) (px : Fin 64) (py : Fin 32) : (s.skipIf c).pixelAt px py = s.pixelAt px py := by cases c <;> rfl
@[simp] theorem State.skipIf_keyAt (c : Bool) (q : Nibble) : (s.skipIf c).keyAt q = s.keyAt q := by cases c <;> rfl

end Sys2Proof.Machine
end

