-- ==== Sys2Proof/Laws/Ops.lean ====
section
/-! SUPPORT. One lemma per shared operation that says what it can do, for proofs to cite instead of unfolding it. -/

namespace Sys2Proof.Machine

variable (s : State)

theorem reset_mem_wf : Memory.wf State.reset.mem = true := rfl

/-- A register after a register write. -/
@[simp] theorem State.setV_reg (x y : Nibble) (b : Byte) :
    (s.setV x b).reg y = if y = x then b else s.reg y := by
  simp [State.setV, State.reg, Vector.getElem_set, BitVec.toNat_inj, eq_comm]

/-- A register after a flag write. -/
@[simp] theorem State.setFlag_reg (y : Nibble) (f : Bool) :
    (s.setFlag f).reg y = if y = 15#4 then flagByte f else s.reg y := State.setV_reg s 15#4 y _

/-- A register after a result and its flag: the flag wins (42_register_register.md R124). -/
@[simp] theorem State.setResult_reg (x y : Nibble) (rf : Byte × Bool) :
    (s.setResult x rf).reg y = if y = 15#4 then flagByte rf.2 else if y = x then rf.1 else s.reg y := by
  simp [State.setResult]

/-- A key after a key write. -/
@[simp] theorem State.setKey_keyAt (k q : Nibble) (b : Bool) :
    (s.setKey k b).keyAt q = if q = k then b else s.keyAt q := by
  simp [State.setKey, State.keyAt, Vector.getElem_set, BitVec.toNat_inj, eq_comm]

/-- A byte after a byte write (20_memory.md R64). -/
@[simp] theorem State.writeByte_readByte (a k : Nat) (b : Byte) :
    (s.writeByte a b).readByte k = if maskAddr k = maskAddr a then b else s.readByte k :=
  Memory.read_write s.mem a k b

/-- A pixel after one is inverted (43_register_register_nibble.md R143). -/
theorem Framebuffer.pixel_flip (fb : Framebuffer) (x x' : Fin 64) (y y' : Fin 32) :
    (Framebuffer.flip fb x y).pixel x' y' =
      if x' = x ∧ y' = y then !Framebuffer.pixel fb x y else Framebuffer.pixel fb x' y' := by
  by_cases hy : y' = y
  · subst hy
    by_cases hx : x' = x
    · subst hx
      simp [Framebuffer.flip, Framebuffer.pixel]
    · have hx' : x.val ≠ x'.val := fun h => hx (Fin.ext h.symm)
      simp [Framebuffer.flip, Framebuffer.pixel, hx, hx']
  · have hy' : y.val ≠ y'.val := fun h => hy (Fin.ext h.symm)
    simp [Framebuffer.flip, Framebuffer.pixel, hy, hy']

theorem Framebuffer.pixel_clear (x : Fin 64) (y : Fin 32) : Framebuffer.pixel Framebuffer.clear x y = false := by
  simp [Framebuffer.clear, Framebuffer.pixel]

/-- One sprite bit: the pixel it lands on is XOR-ed with it, every other pixel is as before, and the collision is the
one so far or this one (43_register_register_nibble.md R143). -/
theorem plotBit_spec (x : Fin 64) (y : Fin 32) (bit : Bool) (c : Framebuffer × Bool) :
    (∀ x' y', (plotBit x y bit c).1.pixel x' y' =
      (c.1.pixel x' y' ^^ (bit && decide (x' = x ∧ y' = y)))) ∧
    (plotBit x y bit c).2 = (c.2 || (bit && c.1.pixel x y)) := by
  cases bit
  · simp [plotBit]
  · refine ⟨fun x' y' => ?_, by simp [plotBit]⟩
    simp only [plotBit, if_true, Framebuffer.pixel_flip, Bool.true_and]
    by_cases h : x' = x ∧ y' = y
    · obtain ⟨rfl, rfl⟩ := h
      simp
    · simp [h]

/-- The columns of a sprite row: a pixel changes exactly when a 1 bit lands on it, and the collision is the one so far or
a 1 bit on a pixel that was set (43_register_register_nibble.md R144). -/
theorem drawColumns_spec (x0 : Byte) (y : Fin 32) (b : Byte) (n : Nat) (hn : n ≤ 8) (c : Framebuffer × Bool) :
    (∀ px py,
      ((∃ k, k < n ∧ px = screenColumn x0 k ∧ py = y ∧ spriteBit b k = true) →
        (drawColumns x0 y b n c).1.pixel px py = !c.1.pixel px py) ∧
      ((¬ ∃ k, k < n ∧ px = screenColumn x0 k ∧ py = y ∧ spriteBit b k = true) →
        (drawColumns x0 y b n c).1.pixel px py = c.1.pixel px py)) ∧
    ((drawColumns x0 y b n c).2 = true ↔
      c.2 = true ∨ ∃ k, k < n ∧ spriteBit b k = true ∧ c.1.pixel (screenColumn x0 k) y = true) := by
  induction n with
  | zero => simp [drawColumns]
  | succ n ih =>
    obtain ⟨ih1, ih2⟩ := ih (by omega)
    obtain ⟨p1, p2⟩ := plotBit_spec (screenColumn x0 n) y (spriteBit b n) (drawColumns x0 y b n c)
    have inj : ∀ k, k < n → screenColumn x0 k ≠ screenColumn x0 n := by
      intro k hk h; simp [screenColumn] at h; omega
    have hold : (drawColumns x0 y b n c).1.pixel (screenColumn x0 n) y = c.1.pixel (screenColumn x0 n) y := by
      apply (ih1 _ _).2; rintro ⟨k, hk, h, -⟩; exact inj k hk h.symm
    refine ⟨fun px py => ⟨?_, ?_⟩, ?_⟩
    · rintro ⟨k, hk, rfl, rfl, hb⟩
      rw [drawColumns, p1]
      by_cases e : k = n
      · subst e; simp [hb, hold]
      · rw [(ih1 _ _).1 ⟨k, by omega, rfl, rfl, hb⟩]
        simp [inj k (by omega)]
    · intro h
      rw [drawColumns, p1, (ih1 _ _).2 (fun ⟨k, hk, r⟩ => h ⟨k, by omega, r⟩)]
      by_cases e : px = screenColumn x0 n ∧ py = y
      · have : spriteBit b n = false := by
          by_contra hb; exact h ⟨n, by omega, e.1, e.2, by simpa using hb⟩
        simp [this]
      · simp [e]
    · rw [drawColumns, p2, Bool.or_eq_true, ih2, hold, Bool.and_eq_true]
      constructor
      · rintro ((h | ⟨k, hk, h⟩) | h)
        · exact .inl h
        · exact .inr ⟨k, by omega, h⟩
        · exact .inr ⟨n, by omega, h⟩
      · rintro (h | ⟨k, hk, h⟩)
        · exact .inl (.inl h)
        · by_cases e : k = n
          · subst e; exact .inr h
          · exact .inl (.inr ⟨k, by omega, h⟩)

/-- The rows of a sprite: a pixel changes exactly when a 1 bit lands on it, and the collision is the one so far or a 1 bit
on a pixel that was set (43_register_register_nibble.md R144). -/
theorem drawRows_spec (x0 y0 : Byte) (row : Nat → Byte) (n : Nat) (hn : n ≤ 15) (c : Framebuffer × Bool) :
    (∀ px py,
      ((∃ r k, r < n ∧ k < 8 ∧ px = screenColumn x0 k ∧ py = screenRow y0 r ∧ spriteBit (row r) k = true) →
        (drawRows x0 y0 row n c).1.pixel px py = !c.1.pixel px py) ∧
      ((¬ ∃ r k, r < n ∧ k < 8 ∧ px = screenColumn x0 k ∧ py = screenRow y0 r ∧ spriteBit (row r) k = true) →
        (drawRows x0 y0 row n c).1.pixel px py = c.1.pixel px py)) ∧
    ((drawRows x0 y0 row n c).2 = true ↔
      c.2 = true ∨ ∃ r k, r < n ∧ k < 8 ∧ spriteBit (row r) k = true ∧
        c.1.pixel (screenColumn x0 k) (screenRow y0 r) = true) := by
  induction n with
  | zero => simp [drawRows]
  | succ n ih =>
    obtain ⟨ih1, ih2⟩ := ih (by omega)
    obtain ⟨q1, q2⟩ := drawColumns_spec x0 (screenRow y0 n) (row n) 8 le_rfl (drawRows x0 y0 row n c)
    have inj : ∀ k, k < n → screenRow y0 k ≠ screenRow y0 n := by
      intro k hk h; simp [screenRow] at h; omega
    have hold : ∀ px, (drawRows x0 y0 row n c).1.pixel px (screenRow y0 n) = c.1.pixel px (screenRow y0 n) := by
      intro px; apply (ih1 _ _).2; rintro ⟨r, k, hr, hk, _, h, _⟩; exact inj r hr h.symm
    refine ⟨fun px py => ⟨?_, ?_⟩, ?_⟩
    · rintro ⟨r, k, hr, hk, rfl, rfl, hb⟩
      rw [drawRows]
      by_cases e : r = n
      · subst e
        rw [(q1 _ _).1 ⟨k, hk, rfl, rfl, hb⟩, hold]
      · rw [(q1 _ _).2, (ih1 _ _).1 ⟨r, k, by omega, hk, rfl, rfl, hb⟩]
        rintro ⟨k', _, _, h, _⟩; exact inj r (by omega) h
    · intro h
      rw [drawRows, (q1 _ _).2, (ih1 _ _).2]
      · rintro ⟨r, k, hr, hk⟩; exact h ⟨r, k, by omega, hk⟩
      · rintro ⟨k, hk, hh⟩; exact h ⟨n, k, by omega, hk, hh⟩
    · rw [drawRows, q2, ih2]
      simp only [hold]
      constructor
      · rintro ((h | ⟨r, k, hr, h⟩) | ⟨k, hk, h⟩)
        · exact .inl h
        · exact .inr ⟨r, k, by omega, h⟩
        · exact .inr ⟨n, k, by omega, hk, h⟩
      · rintro (h | ⟨r, k, hr, hk, h⟩)
        · exact .inl (.inl h)
        · by_cases e : r = n
          · subst e; exact .inr ⟨k, hk, h⟩
          · exact .inl (.inr ⟨r, k, by omega, hk, h⟩)

/-- What a call does: push and jump, or the halt (40_address_only.md R102). -/
theorem State.callTo_cases (t : Word) :
    (∃ h : s.sp.val < 16, s.callTo t =
      { s with stack := s.stack.set s.sp.val s.pc h, sp := ⟨s.sp.val + 1, by omega⟩, pc := t }) ∨
    (s.sp.val = 16 ∧ s.callTo t = s.raiseHalt .stackOverflow) := by
  by_cases h : s.sp.val < 16
  · exact .inl ⟨h, by simp [State.callTo, h]⟩
  · exact .inr ⟨by omega, by simp [State.callTo, h]⟩

/-- What a return does: pop and jump, or the halt (45_zero_operand.md R171). -/
theorem State.returnFromCall_cases :
    (∃ h : 0 < s.sp.val, s.returnFromCall =
      { s with sp := ⟨s.sp.val - 1, by omega⟩, pc := s.stack[s.sp.val - 1]'(by omega) }) ∨
    (s.sp.val = 0 ∧ s.returnFromCall = s.raiseHalt .stackUnderflow) := by
  by_cases h : 0 < s.sp.val
  · exact .inl ⟨h, by simp [State.returnFromCall, h]⟩
  · exact .inr ⟨by omega, by simp [State.returnFromCall, h]⟩

/-- What a draw does: the argument of the `Cycle`, or the next free byte (00_scope.md R13). -/
theorem State.draw_cases :
    (∃ b, s.rnd = some b ∧ s.draw = (b, s)) ∨
    (s.rnd = none ∧ s.draw = (Config.rndByte s.draws, { s with draws := s.draws + 1 })) := by
  cases h : s.rnd with
  | some b => exact .inl ⟨b, rfl, by simp [State.draw, h]⟩
  | none => exact .inr ⟨rfl, by simp [State.draw, h]⟩

/-- A dump keeps the canonical form of memory. -/
theorem State.storeRegs_wf (base n : Nat) (h : Memory.wf s.mem = true) : Memory.wf (s.storeRegs base n) = true := by
  induction n with
  | zero => exact h
  | succ n ih => exact Memory.write_wf _ _ ih

/-- A load changes no field but the registers. -/
theorem State.loadRegs_eq (base n : Nat) : ∃ v, s.loadRegs base n = { s with v := v } := by
  induction n with
  | zero => exact ⟨s.v, rfl⟩
  | succ n ih =>
    obtain ⟨v, h⟩ := ih
    exact ⟨v.set (BitVec.ofNat 4 n).toNat (s.readByte (base + n)) (BitVec.ofNat 4 n).isLt,
      by simp only [State.loadRegs, h, State.setV]⟩

/-- A byte after a dump: the register stored to it, else the byte before (44_single_register.md R159). -/
theorem State.storeRegs_read (base n a : Nat) (hn : n ≤ 16) :
    (∀ k, k < n → maskAddr a = maskAddr (base + k) →
      Memory.read (s.storeRegs base n) a = s.reg (BitVec.ofNat 4 k)) ∧
    ((∀ k, k < n → maskAddr a ≠ maskAddr (base + k)) → Memory.read (s.storeRegs base n) a = s.readByte a) := by
  induction n with
  | zero => simp [State.storeRegs, State.readByte]
  | succ n ih =>
    obtain ⟨stored, kept⟩ := ih (by omega)
    refine ⟨fun k hk h => ?_, fun h => ?_⟩
    · rw [State.storeRegs, Memory.read_write]
      by_cases e : k = n
      · subst e; simp [h]
      · rw [if_neg (by rw [h]; unfold maskAddr; omega), stored k (by omega) h]
    · rw [State.storeRegs, Memory.read_write, if_neg (h n (by omega)), kept (fun k hk => h k (by omega))]

/-- A register after a load: the byte read into it, else the register before (44_single_register.md R160). -/
theorem State.loadRegs_reg (base n : Nat) (hn : n ≤ 16) (r : Nibble) :
    (s.loadRegs base n).reg r = if r.toNat < n then s.readByte (base + r.toNat) else s.reg r := by
  induction n with
  | zero => simp [State.loadRegs]
  | succ n ih =>
    rw [State.loadRegs, State.setV_reg, ih (by omega)]
    by_cases e : r.toNat = n
    · subst e; simp
    · rw [if_neg (by intro h; rw [h] at e; simp at e; omega)]
      split_ifs <;> first | rfl | omega

/-- What a halt leaves: the engine state, and nothing else (60_exceptions.md R190). -/
theorem State.raiseHalt_eq (r : HaltReason) : s.raiseHalt r = { s with es := .halted r } := rfl

/-- What a key press does: the key, and the register a wait named (60_exceptions.md R199). -/
theorem State.keyDown_cases (k : Nibble) :
    (∃ x, s.es = .awaitingKey x ∧
      s.keyDown k = (((s.setKey k true).setV x (zextKey k)).setEs .running)) ∨
    ((∀ x, s.es ≠ .awaitingKey x) ∧ s.keyDown k = s.setKey k true) := by
  cases h : s.es with
  | awaitingKey x => exact .inl ⟨x, rfl, by simp [State.keyDown, h]⟩
  | running => exact .inr ⟨by simp, by simp [State.keyDown, h]⟩
  | halted r => exact .inr ⟨by simp, by simp [State.keyDown, h]⟩

/-- What a stop does: it halts an engine that is not halted (60_exceptions.md R193). -/
theorem State.stop_cases :
    (∃ r, s.es = .halted r ∧ s.stop = s) ∨
    ((∀ r, s.es ≠ .halted r) ∧ s.stop = s.setEs (.halted .externalStop)) := by
  cases h : s.es with
  | halted r => exact .inl ⟨r, rfl, by simp [State.stop, h]⟩
  | running => exact .inr ⟨by simp, by simp [State.stop, h]⟩
  | awaitingKey x => exact .inr ⟨by simp, by simp [State.stop, h]⟩

end Sys2Proof.Machine
end

