-- ==== Sys2Proof/Laws/Engine.lean ====
section
/-! SUPPORT. What a step, a `Cycle` and the execute phase can answer, each said once. -/

namespace Sys2Proof.Machine

variable {s : State}

/-- With nothing scheduled a step is a `Cycle`. -/
theorem step_of_nil (h : s.schedule = []) : step s = freeCycle s := by
  simp [step, nextOperation, h]

/-- With operations scheduled a step is the oldest of them. -/
theorem step_of_cons {op : HostOp} {rest : List HostOp} (h : s.schedule = op :: rest) :
    step s = operate op (s.setSchedule rest) := by
  simp [step, nextOperation, h]

theorem cycle_of_running (r : Option Byte) (h : s.es = .running) : cycle r s = runCycle r s := by
  simp [cycle, h]

theorem cycle_of_awaitingKey (r : Option Byte) {x : Nibble} (h : s.es = .awaitingKey x) :
    cycle r s = .next s.clearOutputs := by
  simp [cycle, h]

theorem cycle_of_halted (r : Option Byte) {reason : HaltReason} (h : s.es = .halted reason) :
    cycle r s = .next s.clearOutputs := by
  simp [cycle, h]

/-- A `Cycle` with nothing scheduled, by the engine state: only a halted engine has none (60_exceptions.md R187). -/
theorem freeCycle_cases (s : State) :
    (∃ reason, s.es = .halted reason ∧ freeCycle s = .fault (.halted reason)) ∨
    ((∀ reason, s.es ≠ .halted reason) ∧ freeCycle s = cycle none s) := by
  cases h : s.es with
  | halted reason => exact .inl ⟨reason, rfl, by simp [freeCycle, h]⟩
  | running => exact .inr ⟨by simp, by simp [freeCycle, h]⟩
  | awaitingKey x => exact .inr ⟨by simp, by simp [freeCycle, h]⟩

/-- A `Cycle` in `Running` on a word that is an operation (60_exceptions.md R185). -/
theorem runCycle_of_op (r : Option Byte) {i : Instr} (h : decodeWord (s.fetch16 s.pc.toNat) = .op i) :
    runCycle r s = exec i (s.beginCycle r) := by
  simp [runCycle, h]

/-- A `Cycle` in `Running` on a word that matches nothing (60_exceptions.md R188). -/
theorem runCycle_of_unknown (r : Option Byte) (h : decodeWord (s.fetch16 s.pc.toNat) = .unknown) :
    runCycle r s = .next ((s.beginCycle r).reportUnknown s.pc (s.fetch16 s.pc.toNat)) := by
  simp [runCycle, h]

/-- What the execute phase can do, over all instructions: it always answers a next state; the outputs, the record of the
`Cycle` and the schedule are as before but for a `FrameDirty` (00_scope.md R11); memory keeps its canonical form; and `ES`
moves for `FX0A`, `2NNN` and `00EE` only (60_exceptions.md R184). -/
theorem exec_next (i : Instr) (s : State) :
    ∃ t, exec i s = .next t ∧ t.ran = s.ran ∧ t.loadResult = s.loadResult ∧ t.rnd = s.rnd ∧ t.schedule = s.schedule ∧
      (Memory.wf s.mem = true → Memory.wf t.mem = true) ∧
      (t.events = s.events ∨ t.events = s.events ++ [.frameDirty] ∧ t.es = s.es) ∧
      t.es = (match i with
        | .ldVxK x => .awaitingKey x
        | .call _ => if s.sp.val = 16 then .halted .stackOverflow else s.es
        | .ret => if s.sp.val = 0 then .halted .stackUnderflow else s.es
        | _ => s.es) := by
  cases i <;> refine ⟨_, rfl, ?_⟩
  case ret =>
    rcases s.returnFromCall_cases with ⟨h, e⟩ | ⟨h, e⟩ <;> simp [e, h]
    intro h0; rw [h0] at h; simp at h
  case call nnn => rcases s.callTo_cases (zextAddr nnn) with ⟨h, e⟩ | ⟨h, e⟩ <;> simp [e, h]; omega
  case ldVxMem x => obtain ⟨v, h⟩ := s.loadRegs_eq (s.dataAddr 0) (x.toNat + 1); simp [h]
  case rnd x nn => rcases s.draw_cases with ⟨b, _, e⟩ | ⟨_, e⟩ <;> simp [e]
  case ldMemVx x => simpa using s.storeRegs_wf (s.dataAddr 0) (x.toNat + 1)
  case ldB x => simpa using fun h => Memory.write_wf _ _ (Memory.write_wf _ _ (Memory.write_wf _ _ h))
  all_goals simp

/-- A fetch depends on memory only. -/
theorem State.fetch16_congr {s t : State} (h : t.mem = s.mem) (a : Nat) : t.fetch16 a = s.fetch16 a := by
  simp [State.fetch16, State.readByte, h]

end Sys2Proof.Machine
end

