-- ==== Sys2Proof/Laws/PerInstr.lean ====
section
/-! SUPPORT. Per instruction: its word lies in its row of the opcode map (30_encoding.md R90), `word & mask = match`. -/

namespace Sys2Proof.Laws.RowPattern

/-- The word of the instruction selects its row: `encode i & mask = match` (30_encoding.md R90). -/
def Statement (i : Sys2Proof.Instr) : Prop :=
  Sys2Proof.encode i &&& Sys2Proof.rowMask i = Sys2Proof.rowMatch i

theorem and_allOnes4 (l : Nibble) : l &&& 0xF#4 = l := BitVec.and_allOnes

theorem packA_mask (l : Nibble) (nnn : Addr) : packA l nnn &&& 0xF000#16 = l ++ 0#12 := by
  have h : (0xF000#16) = (0xF#4 ++ 0#12) := by decide
  rw [h, packA]
  exact (BitVec.and_append ..).trans (by rw [and_allOnes4, BitVec.and_zero])

theorem packRI_mask (l x : Nibble) (nn m : Byte) :
    packRI l x nn &&& ((0xF#4 ++ 0#4) ++ m) = (l ++ 0#4) ++ (nn &&& m) := by
  rw [packRI]
  refine (BitVec.and_append ..).trans ?_
  congr 1
  exact (BitVec.and_append ..).trans (by rw [and_allOnes4, BitVec.and_zero])

theorem packRR_mask (l x y n : Nibble) : packRR l x y n &&& 0xF00F#16 = (l ++ 0#4) ++ (0#4 ++ n) := by
  have h : (0xF00F#16) = ((0xF#4 ++ 0#4) ++ (0#4 ++ 0xF#4)) := by decide
  rw [h, packRR_eq_packRI, packRI_mask]
  congr 1
  exact (BitVec.and_append ..).trans (by rw [and_allOnes4, BitVec.and_zero])

theorem packRI_lead (l x : Nibble) (nn : Byte) : packRI l x nn &&& 0xF000#16 = (l ++ 0#4) ++ 0#8 := by
  have h : (0xF000#16) = ((0xF#4 ++ 0#4) ++ 0#8) := by decide
  rw [h, packRI_mask, BitVec.and_zero]

theorem packRI_code (l x : Nibble) (nn : Byte) : packRI l x nn &&& 0xF0FF#16 = (l ++ 0#4) ++ nn := by
  have h : (0xF0FF#16) = ((0xF#4 ++ 0#4) ++ 0xFF#8) := by decide
  have h8 : (0xFF#8) = BitVec.allOnes 8 := by decide
  rw [h, packRI_mask, h8, BitVec.and_allOnes]

theorem cls : Statement .cls := by unfold Statement; decide

theorem ret : Statement .ret := by unfold Statement; decide

theorem sys (nnn : Addr) : Statement (.sys nnn) := packA_mask _ nnn

theorem jp (nnn : Addr) : Statement (.jp nnn) := packA_mask _ nnn

theorem call (nnn : Addr) : Statement (.call nnn) := packA_mask _ nnn

theorem ldI (nnn : Addr) : Statement (.ldI nnn) := packA_mask _ nnn

theorem jpV0 (nnn : Addr) : Statement (.jpV0 nnn) := packA_mask _ nnn

theorem seImm (x : Nibble) (nn : Byte) : Statement (.seImm x nn) := packRI_lead _ x nn

theorem sneImm (x : Nibble) (nn : Byte) : Statement (.sneImm x nn) := packRI_lead _ x nn

theorem ldImm (x : Nibble) (nn : Byte) : Statement (.ldImm x nn) := packRI_lead _ x nn

theorem addImm (x : Nibble) (nn : Byte) : Statement (.addImm x nn) := packRI_lead _ x nn

theorem rnd (x : Nibble) (nn : Byte) : Statement (.rnd x nn) := packRI_lead _ x nn

theorem seReg (x y : Nibble) : Statement (.seReg x y) := packRR_mask _ x y _

theorem sneReg (x y : Nibble) : Statement (.sneReg x y) := packRR_mask _ x y _

theorem ldReg (x y : Nibble) : Statement (.ldReg x y) := packRR_mask _ x y _

theorem orReg (x y : Nibble) : Statement (.orReg x y) := packRR_mask _ x y _

theorem andReg (x y : Nibble) : Statement (.andReg x y) := packRR_mask _ x y _

theorem xorReg (x y : Nibble) : Statement (.xorReg x y) := packRR_mask _ x y _

theorem addReg (x y : Nibble) : Statement (.addReg x y) := packRR_mask _ x y _

theorem sub (x y : Nibble) : Statement (.sub x y) := packRR_mask _ x y _

theorem shr (x y : Nibble) : Statement (.shr x y) := packRR_mask _ x y _

theorem subn (x y : Nibble) : Statement (.subn x y) := packRR_mask _ x y _

theorem shl (x y : Nibble) : Statement (.shl x y) := packRR_mask _ x y _

theorem drw (x y n : Nibble) : Statement (.drw x y n) := packRI_lead _ x (y ++ n)

theorem skp (x : Nibble) : Statement (.skp x) := packRI_code _ x _

theorem sknp (x : Nibble) : Statement (.sknp x) := packRI_code _ x _

theorem ldVxDt (x : Nibble) : Statement (.ldVxDt x) := packRI_code _ x _

theorem ldVxK (x : Nibble) : Statement (.ldVxK x) := packRI_code _ x _

theorem ldDtVx (x : Nibble) : Statement (.ldDtVx x) := packRI_code _ x _

theorem ldStVx (x : Nibble) : Statement (.ldStVx x) := packRI_code _ x _

theorem addI (x : Nibble) : Statement (.addI x) := packRI_code _ x _

theorem ldF (x : Nibble) : Statement (.ldF x) := packRI_code _ x _

theorem ldB (x : Nibble) : Statement (.ldB x) := packRI_code _ x _

theorem ldMemVx (x : Nibble) : Statement (.ldMemVx x) := packRI_code _ x _

theorem ldVxMem (x : Nibble) : Statement (.ldVxMem x) := packRI_code _ x _

end Sys2Proof.Laws.RowPattern
end

