-- ==== Sys2Proof/Tests/Slice0.lean ====
section
/-! SUPPORT. The model's own tests: the WellFormed smoke test, one word per instruction written out from its encoding
(30_encoding.md R90, R97), single steps with the results of spec/95_test_vectors.md, and for every obligation with
hypotheses a witness that meets them. -/

namespace Sys2Proof.Tests

open Sys2Proof.Machine

/-! ## Well-formedness: the one check refuses both words it excludes (30_encoding.md R85) -/

theorem test_wellFormed_refuses_sys_0E0 : (Instr.sys 0x0E0).wellFormed = false := by decide

theorem test_wellFormed_refuses_sys_0EE : (Instr.sys 0x0EE).wellFormed = false := by decide

theorem test_wellFormed_admits_sys_0E1 : (Instr.sys 0x0E1).wellFormed = true := by decide

/-! ## Decoding: one word per instruction (words of 95_test_vectors.md, else from the row of 30_encoding.md R90) -/

theorem test_decode_cls : decodeWord 0x00E0 = .op (.cls) := by decide

theorem test_decode_ret : decodeWord 0x00EE = .op (.ret) := by decide

theorem test_decode_sys : decodeWord 0x0123 = .op (.sys 0x123) := by decide

theorem test_decode_jp : decodeWord 0x1ABC = .op (.jp 0xABC) := by decide

theorem test_decode_call : decodeWord 0x220C = .op (.call 0x20C) := by decide

theorem test_decode_seImm : decodeWord 0x332A = .op (.seImm 3 0x2A) := by decide

theorem test_decode_sneImm : decodeWord 0x432A = .op (.sneImm 3 0x2A) := by decide

theorem test_decode_seReg : decodeWord 0x5120 = .op (.seReg 1 2) := by decide

theorem test_decode_ldImm : decodeWord 0x6FAB = .op (.ldImm 15 0xAB) := by decide

theorem test_decode_addImm : decodeWord 0x7105 = .op (.addImm 1 5) := by decide

theorem test_decode_ldReg : decodeWord 0x8120 = .op (.ldReg 1 2) := by decide

theorem test_decode_orReg : decodeWord 0x8121 = .op (.orReg 1 2) := by decide

theorem test_decode_andReg : decodeWord 0x8122 = .op (.andReg 1 2) := by decide

theorem test_decode_xorReg : decodeWord 0x8123 = .op (.xorReg 1 2) := by decide

theorem test_decode_addReg : decodeWord 0x8014 = .op (.addReg 0 1) := by decide

theorem test_decode_sub : decodeWord 0x8125 = .op (.sub 1 2) := by decide

theorem test_decode_shr : decodeWord 0x8126 = .op (.shr 1 2) := by decide

theorem test_decode_subn : decodeWord 0x8127 = .op (.subn 1 2) := by decide

theorem test_decode_shl : decodeWord 0x812E = .op (.shl 1 2) := by decide

theorem test_decode_sneReg : decodeWord 0x9120 = .op (.sneReg 1 2) := by decide

theorem test_decode_ldI : decodeWord 0xA2F0 = .op (.ldI 0x2F0) := by decide

theorem test_decode_jpV0 : decodeWord 0xB300 = .op (.jpV0 0x300) := by decide

theorem test_decode_rnd : decodeWord 0xC20F = .op (.rnd 2 0x0F) := by decide

theorem test_decode_drw : decodeWord 0xD015 = .op (.drw 0 1 5) := by decide

theorem test_decode_skp : decodeWord 0xE29E = .op (.skp 2) := by decide

theorem test_decode_sknp : decodeWord 0xE2A1 = .op (.sknp 2) := by decide

theorem test_decode_ldVxDt : decodeWord 0xF307 = .op (.ldVxDt 3) := by decide

theorem test_decode_ldVxK : decodeWord 0xF10A = .op (.ldVxK 1) := by decide

theorem test_decode_ldDtVx : decodeWord 0xF315 = .op (.ldDtVx 3) := by decide

theorem test_decode_ldStVx : decodeWord 0xF018 = .op (.ldStVx 0) := by decide

theorem test_decode_addI : decodeWord 0xF21E = .op (.addI 2) := by decide

theorem test_decode_ldF : decodeWord 0xFA29 = .op (.ldF 10) := by decide

theorem test_decode_ldB : decodeWord 0xF033 = .op (.ldB 0) := by decide

theorem test_decode_ldMemVx : decodeWord 0xF255 = .op (.ldMemVx 2) := by decide

theorem test_decode_ldVxMem : decodeWord 0xF265 = .op (.ldVxMem 2) := by decide

theorem test_decode_unknown_5121 : decodeWord 0x5121 = .unknown := by decide

theorem test_decode_unknown_8128 : decodeWord 0x8128 = .unknown := by decide

theorem test_decode_unknown_9001 : decodeWord 0x9001 = .unknown := by decide

theorem test_decode_unknown_E200 : decodeWord 0xE200 = .unknown := by decide

theorem test_decode_unknown_F2FF : decodeWord 0xF2FF = .unknown := by decide

theorem test_decodeBytes_rest : decodeBytes [0x61, 0x0A, 0x80] = .ok (.ldImm 1 0x0A, [0x80]) := by decide

theorem test_decodeBytes_truncated : decodeBytes [0x61] = .error .truncated := by decide

theorem test_decodeTableWord_highByteFirst : decodeTableWord 16 0x8014 = some (.addReg 0 1) := by decide

/-! ## Single steps (95_test_vectors.md, part 2) -/

/-- The state one step after `s` with the word `w` where it fetches. -/
def after (s : State) (w : Nat) : Option State :=
  match step (s.withFetchWord 16 w) with
  | .next t => some t
  | .fault _ => none
  | .refused _ => none

/-- The state one operation of the host after `s`. -/
def afterOp (s : State) (op : HostOp) : Option State :=
  match step (s.setSchedule [op]) with
  | .next t => some t
  | .fault _ => none
  | .refused _ => none

/-- Reset, with registers 1 and 2. -/
def regs12 (a b : Byte) : State := (State.reset.setV 1 a).setV 2 b

theorem test_sys_advances :
    (after State.reset 0x0123).map (fun t => (t.pc, t.events)) = some (0x202, []) := by decide

theorem test_sys_00E1_is_not_cls :
    (after (State.reset.setFb (Framebuffer.flip State.reset.fb 5 5)) 0x00E1).map (fun t => t.pixelAt 5 5) = some true := by decide

theorem test_jp_odd_target :
    (after State.reset 0x1001).map (fun t => t.pc) = some 0x0001 := by decide

theorem test_call_pushes :
    (after { State.reset with sp := 15 } 0x2300).map (fun t => (t.stack[15], t.sp, t.pc)) = some (0x0202, 16, 0x0300) := by decide

theorem test_call_overflows :
    (after { State.reset with sp := 16 } 0x2300).map (fun t => (t.es, t.pc, t.sp)) = some (.halted .stackOverflow, 0x0202, 16) := by decide

theorem test_ret_pops :
    (after { State.reset with sp := 1, stack := State.reset.stack.set 0 0x1000 } 0x00EE).map (fun t => (t.sp, t.pc, t.stack[0])) = some (0, 0x1000, 0x1000) := by decide

theorem test_ret_underflows :
    (after State.reset 0x00EE).map (fun t => (t.es, t.pc)) = some (.halted .stackUnderflow, 0x0202) := by decide

theorem test_cls_clears :
    (after ((State.reset.setFb (Framebuffer.flip State.reset.fb 5 5)).setV 15 1) 0x00E0).map (fun t => (t.pixelAt 5 5, t.reg 15, t.events)) = some (false, 1, [.frameDirty]) := by decide

theorem test_ldI :
    (after (State.reset.setI 0xFFFF) 0xAFFF).map (fun t => (t.i, t.pc)) = some (0x0FFF, 0x0202) := by decide

theorem test_jpV0_above_FFF :
    (after (State.reset.setV 0 0xFF) 0xBFFF).map (fun t => t.pc) = some 0x10FE := by decide

theorem test_seImm_skips_past_FFF :
    (after (State.reset.setPc 0xFFC) 0x3000).map (fun t => t.pc) = some 0x1000 := by decide

theorem test_sneImm_does_not_skip :
    (after State.reset 0x4000).map (fun t => t.pc) = some 0x202 := by decide

theorem test_seReg_skips :
    (after (regs12 7 7) 0x5120).map (fun t => t.pc) = some 0x204 := by decide

theorem test_sneReg_skips :
    (after (regs12 7 8) 0x9120).map (fun t => t.pc) = some 0x204 := by decide

theorem test_ldImm :
    (after State.reset 0x6FAB).map (fun t => t.reg 15) = some 0xAB := by decide

theorem test_addImm_wraps_without_flag :
    (after (regs12 0xFE 0) 0x7105).map (fun t => (t.reg 1, t.reg 15)) = some (0x03, 0) := by decide

theorem test_ldReg :
    (after (regs12 0x11 0x33) 0x8120).map (fun t => (t.reg 1, t.reg 2)) = some (0x33, 0x33) := by decide

theorem test_or :
    (after (regs12 0x64 0x9C) 0x8121).map (fun t => (t.reg 1, t.reg 15)) = some (0xFC, 0) := by decide

theorem test_and :
    (after (regs12 0x64 0x9C) 0x8122).map (fun t => (t.reg 1, t.reg 15)) = some (0x04, 0) := by decide

theorem test_xor :
    (after (regs12 0x64 0x9C) 0x8123).map (fun t => (t.reg 1, t.reg 15)) = some (0xF8, 0) := by decide

theorem test_addReg_carries :
    (after (regs12 0xFA 0x0A) 0x8124).map (fun t => (t.reg 1, t.reg 15)) = some (0x04, 1) := by decide

theorem test_addReg_flag_wins :
    (after ((State.reset.setV 15 0xF0).setV 1 0x20) 0x8F14).map (fun t => t.reg 15) = some 0x01 := by decide

theorem test_sub_borrows :
    (after (regs12 0x05 0x0A) 0x8125).map (fun t => (t.reg 1, t.reg 15)) = some (0xFB, 0) := by decide

theorem test_sub_equal :
    (after (regs12 0x07 0x07) 0x8125).map (fun t => (t.reg 1, t.reg 15)) = some (0x00, 1) := by decide

theorem test_subn_borrows :
    (after (regs12 0x0A 0x05) 0x8127).map (fun t => (t.reg 1, t.reg 15)) = some (0xFB, 0) := by decide

theorem test_shr_ignores_vy :
    (after (regs12 0x81 0xFF) 0x8126).map (fun t => (t.reg 1, t.reg 2, t.reg 15)) = some (0x40, 0xFF, 1) := by decide

theorem test_shl_drops_bit_7 :
    (after (regs12 0x81 0xFF) 0x812E).map (fun t => (t.reg 1, t.reg 2, t.reg 15)) = some (0x02, 0xFF, 1) := by decide

/-- `rnd = 0xB7` (95_test_vectors.md 2.2): the byte is the argument of the scheduled `Cycle`. -/
theorem test_rnd_masks :
    (afterOp (State.reset.placeWord 0x200 0xC20F) (.cycle 0xB7)).map (fun t => t.reg 2) = some 0x07 := by decide

/-- Nothing scheduled: the byte is the next free one, and the following draw is another (41_register_immediate.md R114). -/
theorem test_rnd_free :
    ∃ t, exec (.rnd 2 0x0F) State.reset = .next t ∧ t.draws = 1 ∧ t.reg 2 = Config.rndByte 0 &&& 0x0F := ⟨_, rfl, rfl, rfl⟩

theorem test_drw_wraps_rows :
    (after ((((State.reset.setI 0x300).writeByte 0x300 0xFF).writeByte 0x301 0x81).setV 1 31) 0xD012).map (fun t => (t.pixelAt 7 31, t.pixelAt 0 0, t.pixelAt 1 0, t.reg 15, t.events)) = some (true, true, false, 0, [.frameDirty]) := by decide

theorem test_drw_collides :
    (after (((State.reset.setI 0x300).writeByte 0x300 0xFF).setFb (Framebuffer.flip State.reset.fb 3 0)) 0xD011).map (fun t => (t.pixelAt 2 0, t.pixelAt 3 0, t.reg 15)) = some (true, false, 1) := by decide

theorem test_skp_low_nibble :
    (after ((State.reset.setV 2 0xF5).setKey 5 true) 0xE29E).map (fun t => t.pc) = some 0x204 := by decide

theorem test_sknp_pressed :
    (after ((State.reset.setV 2 0x05).setKey 5 true) 0xE2A1).map (fun t => t.pc) = some 0x202 := by decide

theorem test_ldVxDt :
    (after (State.reset.setDt 0x3C) 0xF307).map (fun t => t.reg 3) = some 0x3C := by decide

theorem test_ldVxK_waits :
    (after State.reset 0xF10A).map (fun t => (t.es, t.pc, t.reg 1)) = some (.awaitingKey 1, 0x202, 0) := by decide

theorem test_ldDtVx :
    (after (State.reset.setV 3 5) 0xF315).map (fun t => (t.dt, t.st)) = some (5, 0) := by decide

theorem test_ldStVx :
    (after (State.reset.setV 0 2) 0xF018).map (fun t => (t.st, t.dt, t.soundActive)) = some (2, 0, true) := by decide

theorem test_addI_wraps :
    (after ((State.reset.setI 0xFFFF).setV 2 2) 0xF21E).map (fun t => (t.i, t.reg 15)) = some (0x0001, 0) := by decide

theorem test_ldF_has_no_mask :
    (after (State.reset.setV 0 0xFF) 0xF029).map (fun t => t.i) = some 0x04FB := by decide

theorem test_ldB_wraps :
    (after ((State.reset.setI 0x0FFE).setV 0 123) 0xF033).map (fun t => (t.readByte 0xFFE, t.readByte 0xFFF, t.readByte 0)) = some (1, 2, 3) := by decide

theorem test_ldMemVx_wraps :
    (after (((State.reset.setI 0x0FFF).setV 0 0xAB).setV 1 0xCD) 0xF155).map (fun t => (t.readByte 0xFFF, t.readByte 0, t.readByte 1, t.i)) = some (0xAB, 0xCD, 0x90, 0x0FFF) := by decide

theorem test_ldVxMem_font :
    (after (State.reset.setV 3 0x99) 0xF265).map (fun t => (t.reg 0, t.reg 1, t.reg 2, t.reg 3)) = some (0xF0, 0x90, 0x90, 0x99) := by decide

theorem test_unknown_is_reported :
    (after State.reset 0x5121).map (fun t => (t.pc, t.events, t.es)) = some (0x202, [.unknownOpcode 0x0200 0x5121], .running) := by decide

theorem test_fetch_wraps :
    (after (State.reset.setPc 0x0FFF) 0x612A).map (fun t => (t.reg 1, t.pc)) = some (0x2A, 0x1001) := by decide

/-! ## Operations of the host (95_test_vectors.md 2.5, 2.7) -/

theorem test_timerTick_floors :
    (afterOp (State.reset.setDt 1) (.timerTick)).map (fun t => (t.dt, t.st)) = some (0, 0) := by decide

theorem test_timerTick_when_halted :
    (afterOp ((State.reset.setSt 2).setEs (.halted .stackOverflow)) (.timerTick)).map (fun t => (t.st, t.es)) = some (1, .halted .stackOverflow) := by decide

theorem test_keyDown_completes_wait :
    (afterOp (State.reset.setEs (.awaitingKey 1)) (.keyDown 7)).map (fun t => (t.keyAt 7, t.reg 1, t.es)) = some (true, 7, .running) := by decide

theorem test_keyDown_when_running :
    (afterOp State.reset (.keyDown 7)).map (fun t => (t.keyAt 7, t.reg 1, t.es)) = some (true, 0, .running) := by decide

theorem test_keyUp_keeps_wait :
    (afterOp ((State.reset.setKey 4 true).setEs (.awaitingKey 1)) (.keyUp 4)).map (fun t => (t.keyAt 4, t.es)) = some (false, .awaitingKey 1) := by decide

theorem test_stop_ends_wait :
    (afterOp ((State.reset.setV 2 0x55).setEs (.awaitingKey 2)) (.stop)).map (fun t => (t.es, t.reg 2)) = some (.halted .externalStop, 0x55) := by decide

theorem test_stop_keeps_first_reason :
    (afterOp (State.reset.setEs (.halted .stackUnderflow)) (.stop)).map (fun t => t.es) = some (.halted .stackUnderflow) := by decide

theorem test_waiting_cycle :
    (afterOp (State.reset.setEs (.awaitingKey 1)) (.cycle 0)).map (fun t => (t.pc, t.es, t.events)) = some (0x200, .awaitingKey 1, []) := by decide

theorem test_halted_cycle :
    (afterOp (State.reset.setEs (.halted .stackOverflow)) (.cycle 0)).map (fun t => (t.pc, t.events)) = some (0x200, []) := by decide

theorem test_reset_restores_font :
    (afterOp (((State.reset.writeByte 0 0x55).setV 3 9).setEs (.halted .stackOverflow)) (.reset font)).map (fun t => (t.readByte 0, t.reg 3, t.es, t.pc)) = some (0xF0, 0, .running, 0x200) := by decide

theorem test_loadProgram_copies :
    (afterOp State.reset (.loadProgram [0x60, 0x05])).map (fun t => (t.readByte 0x200, t.readByte 0x201, t.loadResult)) = some (0x60, 0x05, some .ok) := by decide

theorem test_halted_engine_is_stuck :
    (match step (State.reset.setEs (.halted .stackOverflow)) with
      | .fault (.halted r) => decide (r = .stackOverflow)
      | _ => false) = true := by decide

theorem test_loadProgram_after_cycle_is_refused :
    (match step ({ State.reset with ran := true }.setSchedule [.loadProgram [0x60]]) with
      | .refused .loadProgramAfterCycle => true
      | _ => false) = true := by decide

/-! ## Witnesses: the hypotheses of each obligation, met together, one clause each -/

/-- Reset with a word at 0x200. -/
def withWord (w : Word) : State := State.reset.placeWord 0x200 w

theorem witness_DecodeReadsBackEncode : (Instr.sys 0x0E1).wellFormed = true ∧ (Instr.drw 15 15 15).wellFormed = true := by
  decide

theorem witness_EncodeReadsBackDecode : decodeWord 0xFF65 = .op (.ldVxMem 15) ∧ decodeWord 0x0FFF = .op (.sys 0xFFF) := by
  decide

theorem witness_LeadingNibbleSelectsOperation :
    (0x1FFF : Word).extractLsb' 12 4 = 0x1#4 ∧ (0x2000 : Word).extractLsb' 12 4 = 0x2#4 ∧
    (0xAFFF : Word).extractLsb' 12 4 = 0xA#4 ∧ (0xB000 : Word).extractLsb' 12 4 = 0xB#4 ∧
    (0x3FFF : Word).extractLsb' 12 4 = 0x3#4 ∧ (0x4000 : Word).extractLsb' 12 4 = 0x4#4 ∧
    (0x6FFF : Word).extractLsb' 12 4 = 0x6#4 ∧ (0x7000 : Word).extractLsb' 12 4 = 0x7#4 ∧
    (0xCFFF : Word).extractLsb' 12 4 = 0xC#4 ∧ (0xD000 : Word).extractLsb' 12 4 = 0xD#4 ∧
    ((0x5FF0 : Word).extractLsb' 12 4 = 0x5#4 ∧ decodeWord 0x5FF0 = .op (.seReg 15 15)) ∧
    ((0x9000 : Word).extractLsb' 12 4 = 0x9#4 ∧ decodeWord 0x9000 = .op (.sneReg 0 0)) ∧
    ((0x8FFE : Word).extractLsb' 12 4 = 0x8#4 ∧ decodeWord 0x8FFE = .op (.shl 15 15)) := by decide

/-- Every trailing nibble of leading nibble 8. -/
theorem witness_TrailingNibbleSelectsAluOperation :
    ∀ n : Nibble, (packRR 0x8 15 0 n).extractLsb' 12 4 = 0x8#4 ∧ (packRR 0x8 15 0 n).extractLsb' 0 4 = n := by decide

/-- Every trailing byte of leading nibbles E and F. -/
theorem witness_TrailingByteSelectsOperation :
    ∀ nn : Byte, (packRI 0xE 15 nn).extractLsb' 12 4 = 0xE#4 ∧ (packRI 0xE 15 nn).extractLsb' 0 8 = nn ∧
      (packRI 0xF 0 nn).extractLsb' 12 4 = 0xF#4 ∧ (packRI 0xF 0 nn).extractLsb' 0 8 = nn := by decide

theorem witness_StepRunsTheDecodedInstruction_nothing_scheduled :
    (withWord 0x6005).es = .running ∧ (withWord 0x6005).schedule = [] ∧
    decodeWord ((withWord 0x6005).fetch16 0x200) = .op (.ldImm 0 5) ∧
    (withWord 0x5121).es = .running ∧ (withWord 0x5121).schedule = [] ∧
    decodeWord ((withWord 0x5121).fetch16 0x200) = .unknown := by decide

theorem witness_StepRunsTheDecodedInstruction_scheduled :
    ((withWord 0x6005).setSchedule [.cycle 1, .stop]).es = .running ∧
    ((withWord 0x6005).setSchedule [.cycle 1, .stop]).schedule = .cycle 1 :: [.stop] ∧
    decodeWord (((withWord 0x6005).setSchedule [.cycle 1, .stop]).fetch16 0x200) = .op (.ldImm 0 5) ∧
    decodeWord (((withWord 0x5121).setSchedule [.cycle 1, .stop]).fetch16 0x200) = .unknown := by decide

theorem witness_StepRunsTheDecodedInstruction_operations :
    (State.reset.setSchedule [.timerTick]).schedule = .timerTick :: [] ∧
    (State.reset.setSchedule [.loadProgram [], .keyUp 15]).schedule = .loadProgram [] :: [.keyUp 15] := by decide

theorem witness_FetchUsesTwelveAddressBits : (0x1FFF : Word) &&& 0xFFF#16 = (0x0FFF : Word) &&& 0xFFF#16 := by decide

theorem witness_NextFetchSeesTheStore :
    (withWord 0xFF55).es = .running ∧ decodeWord ((withWord 0xFF55).fetch16 0x200) = .op (.ldMemVx 15) ∧
    decodeWord ((withWord 0xF055).fetch16 0x200) = .op (.ldMemVx 0) ∧
    decodeWord ((withWord 0xF033).fetch16 0x200) = .op (.ldB 0) := by decide

/-- Stores that reach the next instruction: sixteen bytes that end on its first, one byte on its second (`I` above 0xFFF),
three digits that straddle its start; then one byte that leaves its first byte as it was. -/
theorem witness_NextFetchSeesTheStore_addresses :
    ((withWord 0xFF55).setI 0x1F3).dataAddr 15 % 4096 = ((withWord 0xFF55).pc.toNat + 2 + 0) % 4096 ∧
    ((withWord 0xF055).setI 0xF203).dataAddr 0 % 4096 = ((withWord 0xF055).pc.toNat + 2 + 1) % 4096 ∧
    ((withWord 0xF033).setI 0x201).dataAddr 1 % 4096 = ((withWord 0xF033).pc.toNat + 2 + 0) % 4096 ∧
    ((withWord 0xF033).setI 0x201).dataAddr 2 % 4096 = ((withWord 0xF033).pc.toNat + 2 + 1) % 4096 ∧
    ∀ k : Nat, k < 1 →
      ((withWord 0xF055).setI 0x203).dataAddr k % 4096 ≠ ((withWord 0xF055).pc.toNat + 2 + 0) % 4096 := by decide

theorem witness_SysIsNoOp :
    (0x00E1 : Word).extractLsb' 12 4 = 0#4 ∧ (0x00E1 : Word) ≠ 0x00E0#16 ∧ (0x00E1 : Word) ≠ 0x00EE#16 := by decide

theorem witness_JumpSetsPc : (0x1FFF : Word).extractLsb' 12 4 = 0x1#4 := by decide

theorem witness_CallPushesReturnAddress :
    ({ State.reset with sp := 15 } : State).sp.val < 16 ∧ State.reset.sp.val < 16 := by decide

theorem witness_ReturnPopsPc :
    0 < ({ State.reset with sp := 1 } : State).sp.val ∧ 0 < ({ State.reset with sp := 16 } : State).sp.val := by decide

theorem witness_StackErrorsHaltTheEngine :
    ({ State.reset with sp := 16 } : State).sp.val = 16 ∧ State.reset.sp.val = 0 := by decide

theorem witness_CallThenReturnComesBack :
    ((withWord 0x2300).placeWord 0x300 0x00EE).es = .running ∧ ((withWord 0x2300).placeWord 0x300 0x00EE).schedule = [] ∧
    ((withWord 0x2300).placeWord 0x300 0x00EE).sp.val < 16 ∧
    decodeWord (((withWord 0x2300).placeWord 0x300 0x00EE).fetch16 0x200) = .op (.call 0x300) ∧
    decodeWord (((withWord 0x2300).placeWord 0x300 0x00EE).fetch16 0x300) = .op .ret := by decide

theorem witness_LoadIndexSetsI : (0xAFFF : Word).extractLsb' 12 4 = 0xA#4 := by decide

theorem witness_ImmediateSkips :
    (0x3FFF : Word).extractLsb' 12 4 = 0x3#4 ∧ (0x4000 : Word).extractLsb' 12 4 = 0x4#4 := by decide

theorem witness_LoadImmediateSetsVx : (0x6FFF : Word).extractLsb' 12 4 = 0x6#4 := by decide

theorem witness_AddImmediateWrapsWithoutFlag : (0x7FFF : Word).extractLsb' 12 4 = 0x7#4 ∧ (14 : Nibble) ≠ 15 := by decide

theorem witness_RandomIsMaskedByNN :
    ({ State.reset with rnd := some 0xFF } : State).rnd = some 0xFF ∧ State.reset.rnd = none ∧ (0 : Nibble) ≠ 15 := by
  decide

theorem witness_RegisterSkips :
    (0x5FF0 : Word).extractLsb' 12 4 = 0x5#4 ∧ (0x9001 : Word).extractLsb' 12 4 = 0x9#4 := by decide

theorem witness_MoveAndLogicWriteVxOnly :
    (0x8FF0 : Word).extractLsb' 12 4 = 0x8#4 ∧ (0x8FF0 : Word).extractLsb' 0 4 = 0x0#4 ∧
    (0x8FF1 : Word).extractLsb' 12 4 = 0x8#4 ∧ (0x8FF1 : Word).extractLsb' 0 4 = 0x1#4 ∧
    (0x8002 : Word).extractLsb' 12 4 = 0x8#4 ∧ (0x8002 : Word).extractLsb' 0 4 = 0x2#4 ∧
    (0x8003 : Word).extractLsb' 12 4 = 0x8#4 ∧ (0x8003 : Word).extractLsb' 0 4 = 0x3#4 := by decide

theorem witness_AddRegisterSetsSumAndCarry :
    (0x8FF4 : Word).extractLsb' 12 4 = 0x8#4 ∧ (0x8FF4 : Word).extractLsb' 0 4 = 0x4#4 ∧ (14 : Nibble) ≠ 15#4 ∧
    (13 : Nibble) ≠ 14 ∧ (13 : Nibble) ≠ 15#4 := by decide

theorem witness_SubSetsDifferenceAndNotBorrow :
    (0x8FF5 : Word).extractLsb' 12 4 = 0x8#4 ∧ (0x8FF5 : Word).extractLsb' 0 4 = 0x5#4 ∧ (14 : Nibble) ≠ 15#4 ∧
    (13 : Nibble) ≠ 14 ∧ (13 : Nibble) ≠ 15#4 := by decide

theorem witness_SubnSetsReverseDifferenceAndNotBorrow :
    (0x8FF7 : Word).extractLsb' 12 4 = 0x8#4 ∧ (0x8FF7 : Word).extractLsb' 0 4 = 0x7#4 ∧ (14 : Nibble) ≠ 15#4 ∧
    (13 : Nibble) ≠ 14 ∧ (13 : Nibble) ≠ 15#4 := by decide

theorem witness_ShiftsMoveVxByOneBit :
    (0x8FF6 : Word).extractLsb' 12 4 = 0x8#4 ∧ (0x8FF6 : Word).extractLsb' 0 4 = 0x6#4 ∧
    (0x800E : Word).extractLsb' 12 4 = 0x8#4 ∧ (0x800E : Word).extractLsb' 0 4 = 0xE#4 ∧ (14 : Nibble) ≠ 15#4 ∧
    (13 : Nibble) ≠ 14 ∧ (13 : Nibble) ≠ 15#4 := by decide

/-- A pixel the sprite covers: row 0 of glyph 0 at (63, 31) covers (2, 31) by wrap. -/
theorem witness_DrawXorsTheSprite_covers :
    ((State.reset.setV 0 63).setV 1 31).spriteCovers 63 31 1 2 31 :=
  ⟨0, 3, by decide, by decide, by decide, by decide, by decide⟩

/-- A pixel no sprite of 0 rows covers. -/
theorem witness_DrawXorsTheSprite_leaves : ¬ State.reset.spriteCovers 0 0 0 0 0 := by
  rintro ⟨r, _, hr, _⟩
  exact absurd hr (by simp)

/-- A covered pixel that is set, and so a collision; on a clear screen there is none. -/
theorem witness_DrawXorsTheSprite_collides :
    (∃ px py, (State.reset.setFb (Framebuffer.flip State.reset.fb 0 0)).spriteCovers 0 0 1 px py ∧
      (State.reset.setFb (Framebuffer.flip State.reset.fb 0 0)).pixelAt px py = true) ∧
    ¬ ∃ px py, State.reset.spriteCovers 0 0 1 px py ∧ State.reset.pixelAt px py = true := by
  refine ⟨⟨0, 0, ⟨0, 0, by decide, by decide, by decide, by decide, by decide⟩, by decide⟩, ?_⟩
  rintro ⟨px, py, _, h⟩
  simp [State.pixelAt, State.reset, Framebuffer.pixel] at h

theorem witness_DrawingTwiceRestoresTheFramebuffer : (14 : Nibble) ≠ 15#4 ∧ (0 : Nibble) ≠ 15#4 := by decide

/-- The place is kept with `X = Y = 15` too, where the flag the draw writes is the one `V[15]` held. -/
theorem witness_DrawingTwiceRestoresTheFramebuffer_flag_register :
    ∃ t, exec (.drw 15 15 1) State.reset = .next t ∧ t.reg 15 = State.reset.reg 15 := ⟨_, rfl, by decide⟩

theorem witness_KeySkips :
    (0xEF9E : Word) &&& 0xF0FF#16 = 0xE09E#16 ∧ (0xE0A1 : Word) &&& 0xF0FF#16 = 0xE0A1#16 := by decide

theorem witness_TimerRegistersMove :
    (0xFF07 : Word) &&& 0xF0FF#16 = 0xF007#16 ∧ (0xF015 : Word) &&& 0xF0FF#16 = 0xF015#16 ∧
    (0xFF18 : Word) &&& 0xF0FF#16 = 0xF018#16 := by decide

theorem witness_KeyWaitEndsWithTheNextPress : (1 : Nibble) ≠ 0 ∧ (15 : Nibble) ≠ 0 := by decide

/-- The byte after the three, for `I` at the top of the address space. -/
theorem witness_BcdStoresThreeDigits :
    (0xFF33 : Word) &&& 0xF0FF#16 = 0xF033#16 ∧
    2 % 4096 ≠ (State.reset.setI 0xFFFF).dataAddr 0 % 4096 ∧ 2 % 4096 ≠ (State.reset.setI 0xFFFF).dataAddr 1 % 4096 ∧
    2 % 4096 ≠ (State.reset.setI 0xFFFF).dataAddr 2 % 4096 := by decide

/-- The byte after sixteen registers, for `I` at the top of the address space. -/
theorem witness_DumpStoresRegisters :
    (0xFF55 : Word) &&& 0xF0FF#16 = 0xF055#16 ∧ (15 : Nibble).toNat ≤ (15 : Nibble).toNat ∧
    ∀ k : Nat, k ≤ (15 : Nibble).toNat → 15 % 4096 ≠ (State.reset.setI 0xFFFF).dataAddr k % 4096 := by
  refine ⟨by decide, by decide, fun k hk => ?_⟩
  have h : (State.reset.setI 0xFFFF).dataAddr k = 65535 + k := rfl
  have hk' : k ≤ 15 := hk
  omega

theorem witness_LoadReadsRegisters : (0xFF65 : Word) &&& 0xF0FF#16 = 0xF065#16 := by decide

theorem witness_LoadRestoresTheDump (t : State) (h : t.i = State.reset.i) :
    ∃ u : State, u.i = State.reset.i ∧
      (∀ k : Nat, k ≤ (15 : Nibble).toNat → u.readByte (State.reset.dataAddr k) = t.readByte (State.reset.dataAddr k)) ∧
      (0 : Nibble).toNat ≤ (15 : Nibble).toNat :=
  ⟨t, h, fun _ _ => rfl, by decide⟩

theorem witness_WaitingCycleChangesNothing : (State.reset.setEs (.awaitingKey 15)).es = .awaitingKey 15 := by decide

theorem witness_HaltedEngineIsStuck :
    (State.reset.setEs (.halted .externalStop)).es = .halted .externalStop ∧
    (State.reset.setEs (.halted .externalStop)).schedule = [] ∧
    (State.reset.setEs (.awaitingKey 0)).es = .awaitingKey 0 ∧ (State.reset.setEs (.awaitingKey 0)).schedule = [] := by
  decide

theorem witness_UnknownWordIsReportedAndSkipped :
    (withWord 0xF2FF).es = .running ∧ decodeWord ((withWord 0xF2FF).fetch16 (withWord 0xF2FF).pc.toNat) = .unknown := by
  decide

theorem witness_KeyOperationsWriteTheKey :
    (∀ x, State.reset.es ≠ .awaitingKey x) ∧ ∀ x, (State.reset.setEs (.halted .externalStop)).es ≠ .awaitingKey x := by
  decide

theorem witness_LoadProgramCopiesTheImage :
    State.reset.ran = false ∧ (List.replicate 3585 (0 : Byte)).length > 3584 ∧
    (List.replicate 3584 (0 : Byte)).length ≤ 3584 ∧ ([] : List Byte).length ≤ 3584 :=
  ⟨rfl, by rw [List.length_replicate]; decide, by rw [List.length_replicate], by decide⟩

theorem witness_LoadProgramIsRefusedAfterACycle :
    ({ State.reset with ran := true } : State).ran = true ∧ State.reset.es = .running ∧
    (∃ t, operate .stop { State.reset with ran := true } = .next t) := by
  exact ⟨rfl, rfl, _, rfl⟩

theorem witness_EveryStepKeepsTheInvariant : State.reset.Inv ∧ ∃ t, step State.reset = .next t := by
  refine ⟨⟨rfl, by decide, by simp [State.reset], by simp [State.reset], ?_, ?_⟩, _, rfl⟩
  · simp [State.Waiting, State.Crashed, State.reset]
  · simp [State.reset, State.reg, State.pixelAt, Framebuffer.pixel]

theorem witness_OnlyCallAndReturnRaiseStackErrors :
    State.reset.es = .running ∧ ({ State.reset with sp := 16 } : State).es = .running := by decide

theorem witness_EngineStateMovesAsTheTableSays_operation :
    (∃ t, operate (.reset font) (State.reset.setEs (.halted .stackOverflow)) = .next t ∧ t.es = .running) ∧
    (∃ t, operate (.keyDown 7) (State.reset.setEs (.awaitingKey 3)) = .next t ∧ t.es = .running) ∧
    (∃ t, operate .timerTick (State.reset.setEs (.halted .stackOverflow)) = .next t ∧ t.es = .halted .stackOverflow) :=
  ⟨⟨_, rfl, rfl⟩, ⟨_, rfl, rfl⟩, ⟨_, rfl, rfl⟩⟩

theorem witness_EngineStateMovesAsTheTableSays_nothing_scheduled :
    (withWord 0xF30A).schedule = [] ∧ ∃ t, step (withWord 0xF30A) = .next t ∧ t.es = .awaitingKey 3 :=
  ⟨rfl, _, rfl, rfl⟩

theorem witness_EventsAreExactlyThese_frameDirty :
    (withWord 0x00E0).es = .running ∧ decodeWord ((withWord 0x00E0).fetch16 0x200) = .op .cls ∧
    decodeWord ((withWord 0x5121).fetch16 0x200) = .unknown ∧
    decodeWord ((withWord 0x6005).fetch16 0x200) = .op (.ldImm 0 5) ∧
    (∃ t, operate (.cycle 0) (withWord 0x00E0) = .next t) := ⟨rfl, by decide, by decide, by decide, _, rfl⟩

theorem witness_RandomByteReachesOnlyRnd : ∀ x nn, Instr.ldVxMem 15 ≠ .rnd x nn := by
  intro x nn h
  cases h


end Sys2Proof.Tests
end

section
/-! PROOFS of the family `10_state.md`: memory after `Reset`. -/

namespace Sys2Proof.Machine

/-- Memory after `Reset` lists no cell, so each of its bytes is the reset value of its address. -/
@[simp] theorem State.reset_readByte (a : Nat) : State.reset.readByte a = resetByte (maskAddr a) := rfl

theorem resetByte_of_ge {a : Nat} (h : 80 ≤ a) : resetByte a = 0#8 := dif_neg (by omega)

/-- Every byte after `Reset(FONT)`, in one equation (10_state.md R48). -/
theorem State.resetWith_readByte (s : State) (f : Vector Byte 80) {a : Nat} (ha : a < 4096) :
    (s.resetWith f).readByte a = if h : a < 80 then f[a] else 0#8 := by
  have written : (s.resetWith f).readByte a =
      if h : 0 ≤ a ∧ a < 0 + f.toList.length then f.toList[a - 0]'(by omega) else State.reset.readByte a :=
    Memory.read_writeBytes f.toList State.reset.mem 0 a (by simp) ha
  by_cases h : a < 80
  · simpa [h] using written
  · simpa [h, maskAddr_of_lt ha, resetByte_of_ge (not_lt.1 h)] using written

theorem State.resetWith_readByte_font (s : State) (f : Vector Byte 80) {a : Nat} (h : a < 80) :
    (s.resetWith f).readByte a = f[a] := by
  rw [State.resetWith_readByte s f (by omega), dif_pos h]

theorem State.resetWith_readByte_zero (s : State) (f : Vector Byte 80) {a : Nat} (h : 80 ≤ a) (ha : a < 4096) :
    (s.resetWith f).readByte a = 0#8 := by
  rw [State.resetWith_readByte s f ha, dif_neg (not_lt.2 h)]

/-- Settles O49: `Reset` writes the font's 80 bytes from address 0 over a memory that reads as 0 beyond them. -/
theorem resetPlacesTheFont : Obligations.ResetPlacesTheFont := by
  intro s f
  refine ⟨s.resetWith f, rfl, ?font, ?zero, ?glyph⟩
  case font => exact fun _ h => s.resetWith_readByte_font f h
  case zero => exact fun _ h ha => s.resetWith_readByte_zero f h ha
  case glyph => exact fun _ _ _ _ => s.resetWith_readByte_font f (by omega)

end Sys2Proof.Machine
end

section
/-! PROOFS of the family `20_memory.md`: the two bytes of a fetch, and what a fetch after a store reads. -/

namespace Sys2Proof

@[simp] theorem highByte_wordOfBytes (hi lo : Byte) : highByte (wordOfBytes hi lo) = hi := by
  ext i h
  simp [highByte, getLsbD_wordOfBytes, BitVec.getLsbD_eq_getElem h]

@[simp] theorem lowByte_wordOfBytes (hi lo : Byte) : lowByte (wordOfBytes hi lo) = lo := by
  ext i h
  simp [lowByte, getLsbD_wordOfBytes, h]

namespace Machine

variable {s t : State}

/-! ### The two bytes of a fetch -/

@[simp] theorem State.highByte_fetch16 (s : State) (a : Nat) : highByte (s.fetch16 a) = s.readByte a :=
  highByte_wordOfBytes _ _

@[simp] theorem State.lowByte_fetch16 (s : State) (a : Nat) : lowByte (s.fetch16 a) = s.readByte (a + 1) :=
  lowByte_wordOfBytes _ _

/-- The byte at distance `j` from the fetched address, `j` being 0 or 1 (20_memory.md R67). -/
theorem State.fetch16_byte (s : State) (a : Nat) {j : Nat} (hj : j < 2) :
    (s.fetch16 a).extractLsb' (8 - 8 * j) 8 = s.readByte (a + j) := by
  obtain rfl | rfl : j = 0 ∨ j = 1 := by omega
  · exact s.highByte_fetch16 a
  · exact s.lowByte_fetch16 a

theorem maskAddr_ne_succ (a : Nat) : maskAddr a ≠ maskAddr (a + 1) := by
  unfold maskAddr
  omega

/-- A placed word is fetched back: the write of its second byte leaves the first one, at another address. -/
theorem State.fetch16_placeWord (s : State) (a : Nat) (w : Word) : (s.placeWord a w).fetch16 a = w := by
  simp [State.fetch16, State.placeWord, maskAddr_ne_succ, wordOfBytes_bytes]

/-- Settles O9: by the two bytes of a fetch, and the fetch of a placed word. -/
theorem fetchIsBigEndian : Obligations.FetchIsBigEndian := fun s a =>
  ⟨s.highByte_fetch16 a, s.lowByte_fetch16 a, s.fetch16_placeWord a⟩

/-! ### A block stored at `I` -/

/-- Memory in `t` is memory in `s` with `stored k` at `I + k` for every `k < len` (20_memory.md R64, R65). -/
def HoldsStore (s t : State) (len : Nat) (stored : Nat → Byte) : Prop :=
  ∀ a : Nat,
    (∀ k, k < len → maskAddr a = maskAddr (s.dataAddr k) → t.readByte a = stored k) ∧
    ((∀ k, k < len → maskAddr a ≠ maskAddr (s.dataAddr k)) → t.readByte a = s.readByte a)

theorem HoldsStore.zero (s : State) (stored : Nat → Byte) : HoldsStore s s 0 stored :=
  fun _ => ⟨fun _ hk => absurd hk (Nat.not_lt_zero _), fun _ => rfl⟩

/-- One more byte, while the block is shorter than the address space and so does not overwrite itself. -/
theorem HoldsStore.succ {len : Nat} {stored : Nat → Byte} (h : HoldsStore s t len stored) (hlen : len < 4096) :
    HoldsStore s (t.writeByte (s.dataAddr len) (stored len)) (len + 1) stored := by
  intro a
  obtain ⟨written, kept⟩ := h a
  refine ⟨fun k hk ha => ?_, fun ha => ?_⟩
  · obtain rfl | hk : k = len ∨ k < len := by omega
    · simp [ha]
    · have apart : maskAddr a ≠ maskAddr (s.dataAddr len) := by
        rw [ha]
        unfold maskAddr State.dataAddr
        omega
      simp [apart, written k hk ha]
  · simp [ha len (by omega), kept fun k hk => ha k (by omega)]

/-- `FX55` stores the registers `V[0]` to `V[X]` (44_single_register.md R159). -/
theorem holdsStore_storeRegs (s : State) (x : Nibble) :
    HoldsStore s (s.setMem (s.storeRegs (s.dataAddr 0) (x.toNat + 1))) (x.toNat + 1)
      (fun k => s.reg (BitVec.ofNat 4 k)) :=
  fun a => s.storeRegs_read (s.dataAddr 0) (x.toNat + 1) a x.isLt

/-- The digits `FX33` stores, hundreds first (44_single_register.md R158). -/
def bcdDigit (v : Byte) (k : Nat) : Byte := if k = 0 then hundreds v else if k = 1 then tens v else ones v

/-- `FX33` stores the three digits of `V[X]`, one byte after the other (44_single_register.md R158). -/
theorem holdsStore_bcd (s : State) (x : Nibble) :
    HoldsStore s
      (((s.writeByte (s.dataAddr 0) (hundreds (s.reg x))).writeByte (s.dataAddr 1) (tens (s.reg x))).writeByte
        (s.dataAddr 2) (ones (s.reg x)))
      3 (bcdDigit (s.reg x)) :=
  have oneDigit := (HoldsStore.zero s (bcdDigit (s.reg x))).succ (by decide)
  have twoDigits := oneDigit.succ (by decide)
  twoDigits.succ (by decide)

/-- The start of a `Cycle` writes neither memory nor `I`. -/
theorem HoldsStore.of_beginCycle {r : Option Byte} {len : Nat} {stored : Nat → Byte}
    (h : HoldsStore (s.beginCycle r) t len stored) : HoldsStore s t len stored := h

/-- A fetch sees a block stored at `I`: the addresses compared are those of the bytes the word is made of. -/
theorem HoldsStore.fetchesTheStore {len : Nat} {stored : Nat → Byte} (h : HoldsStore s t len stored)
    (hpc : t.pc = s.pc + 2#16) : FetchesTheStore s t len stored := by
  intro j hj
  have addr : maskAddr (t.pc.toNat + j) = maskAddr (s.pc.toNat + 2 + j) := by
    simp only [maskAddr, hpc, BitVec.toNat_add, BitVec.toNat_ofNat]
    omega
  have byte : (t.fetch16 t.pc.toNat).extractLsb' (8 - 8 * j) 8 = t.readByte (s.pc.toNat + 2 + j) := by
    rw [t.fetch16_byte t.pc.toNat hj]
    simp only [State.readByte, Memory.read, addr]
  rw [byte]
  obtain ⟨written, kept⟩ := h (s.pc.toNat + 2 + j)
  exact ⟨fun k hk ha => written k hk ha.symm, fun ha => kept fun k hk => (ha k hk).symm⟩

/-- A `Cycle(b)` of the host on a word that is an operation (60_exceptions.md R185). -/
theorem operate_cycle_of_op (b : Byte) {i : Instr} (hrun : s.es = .running)
    (hop : decodeWord (s.fetch16 s.pc.toNat) = .op i) :
    operate (.cycle b) s = exec i (s.beginCycle (some b)) :=
  (cycle_of_running (some b) hrun).trans (runCycle_of_op (some b) hop)

/-- Settles O11: the block `FX55` or `FX33` stores is what the fetch at the advanced `PC` reads. -/
theorem nextFetchSeesTheStore : Obligations.NextFetchSeesTheStore := by
  intro s b x hrun
  refine ⟨fun hop => ?dump, fun hop => ?bcd⟩
  case dump =>
    have holds := (holdsStore_storeRegs (s.beginCycle (some b)) x).of_beginCycle
    exact ⟨_, operate_cycle_of_op b hrun hop, rfl, hrun, holds.fetchesTheStore rfl⟩
  case bcd =>
    have holds := (holdsStore_bcd (s.beginCycle (some b)) x).of_beginCycle
    exact ⟨_, operate_cycle_of_op b hrun hop, rfl, hrun, holds.fetchesTheStore rfl⟩

end Machine
end Sys2Proof
end

section
/-! PROOFS of the family `30_encoding.md`: the first-level dispatch on the leading nibble, and the second-level ones. -/

namespace Sys2Proof

variable {w : Word} {i j : Instr} {x y n : Nibble} {nn : Byte}

/-! ### The first-level dispatch (30_encoding.md R84)

One equation per leading nibble. -/

theorem decodeWord_of_lead_1 (h : leadNibble w = 0x1#4) : decodeWord w = .op (.jp (fieldNNN w)) := by
  rw [decodeWord, h]; rfl

theorem decodeWord_of_lead_2 (h : leadNibble w = 0x2#4) : decodeWord w = .op (.call (fieldNNN w)) := by
  rw [decodeWord, h]; rfl

theorem decodeWord_of_lead_3 (h : leadNibble w = 0x3#4) : decodeWord w = .op (.seImm (fieldX w) (fieldNN w)) := by
  rw [decodeWord, h]; rfl

theorem decodeWord_of_lead_4 (h : leadNibble w = 0x4#4) : decodeWord w = .op (.sneImm (fieldX w) (fieldNN w)) := by
  rw [decodeWord, h]; rfl

theorem decodeWord_of_lead_5 (h : leadNibble w = 0x5#4) :
    decodeWord w = decodeWhenN0 (.seReg (fieldX w) (fieldY w)) (fieldN w) := by
  rw [decodeWord, h]; rfl

theorem decodeWord_of_lead_6 (h : leadNibble w = 0x6#4) : decodeWord w = .op (.ldImm (fieldX w) (fieldNN w)) := by
  rw [decodeWord, h]; rfl

theorem decodeWord_of_lead_7 (h : leadNibble w = 0x7#4) : decodeWord w = .op (.addImm (fieldX w) (fieldNN w)) := by
  rw [decodeWord, h]; rfl

theorem decodeWord_of_lead_8 (h : leadNibble w = 0x8#4) :
    decodeWord w = decodeFamily8 (fieldX w) (fieldY w) (fieldN w) := by
  rw [decodeWord, h]; rfl

theorem decodeWord_of_lead_9 (h : leadNibble w = 0x9#4) :
    decodeWord w = decodeWhenN0 (.sneReg (fieldX w) (fieldY w)) (fieldN w) := by
  rw [decodeWord, h]; rfl

theorem decodeWord_of_lead_A (h : leadNibble w = 0xA#4) : decodeWord w = .op (.ldI (fieldNNN w)) := by
  rw [decodeWord, h]; rfl

theorem decodeWord_of_lead_B (h : leadNibble w = 0xB#4) : decodeWord w = .op (.jpV0 (fieldNNN w)) := by
  rw [decodeWord, h]; rfl

theorem decodeWord_of_lead_C (h : leadNibble w = 0xC#4) : decodeWord w = .op (.rnd (fieldX w) (fieldNN w)) := by
  rw [decodeWord, h]; rfl

theorem decodeWord_of_lead_D (h : leadNibble w = 0xD#4) :
    decodeWord w = .op (.drw (fieldX w) (fieldY w) (fieldN w)) := by
  rw [decodeWord, h]; rfl

theorem decodeWord_of_lead_E (h : leadNibble w = 0xE#4) : decodeWord w = decodeFamilyE (fieldX w) (fieldNN w) := by
  rw [decodeWord, h]; rfl

theorem decodeWord_of_lead_F (h : leadNibble w = 0xF#4) : decodeWord w = decodeFamilyF (fieldX w) (fieldNN w) := by
  rw [decodeWord, h]; rfl

/-! ### The second-level dispatches (30_encoding.md R86 to R88) -/

/-- Leading nibbles 5 and 9 (30_encoding.md R87). -/
theorem decodeWhenN0_eq_op : decodeWhenN0 i n = .op j ↔ n = 0#4 ∧ j = i := by
  by_cases hn : n = 0#4
  · simp [decodeWhenN0, hn, eq_comm]
  · simp [decodeWhenN0, hn]

/-- The seven trailing nibbles that match no row of leading nibble 8 (30_encoding.md R86). -/
theorem decodeFamily8_eq_unknown (hn : n ∈ [0x8#4, 0x9#4, 0xA#4, 0xB#4, 0xC#4, 0xD#4, 0xF#4]) :
    decodeFamily8 x y n = .unknown := by
  simp only [List.mem_cons, List.not_mem_nil, or_false] at hn
  obtain rfl | rfl | rfl | rfl | rfl | rfl | rfl := hn <;> rfl

/-- Whatever the trailing nibble, leading nibble 8 decodes to one of nine operations on `X` and `Y` (30_encoding.md R86). -/
theorem mem_of_decodeFamily8_eq_op (h : decodeFamily8 x y n = .op i) :
    i ∈ [.ldReg x y, .orReg x y, .andReg x y, .xorReg x y, .addReg x y, .sub x y, .shr x y, .subn x y, .shl x y] := by
  unfold decodeFamily8 at h
  split at h <;> cases h <;> simp

/-- The dispatch of leading nibble E as the comparisons of 30_encoding.md R88. -/
theorem decodeFamilyE_eq_ite : decodeFamilyE x nn =
    if nn = 0x9E#8 then .op (.skp x) else if nn = 0xA1#8 then .op (.sknp x) else .unknown := by
  simp only [decodeFamilyE, ← BitVec.toNat_inj]
  split <;> simp_all

/-- The dispatch of leading nibble F as the comparisons of 30_encoding.md R88. -/
theorem decodeFamilyF_eq_ite : decodeFamilyF x nn =
    if nn = 0x07#8 then .op (.ldVxDt x) else if nn = 0x0A#8 then .op (.ldVxK x)
    else if nn = 0x15#8 then .op (.ldDtVx x) else if nn = 0x18#8 then .op (.ldStVx x)
    else if nn = 0x1E#8 then .op (.addI x) else if nn = 0x29#8 then .op (.ldF x)
    else if nn = 0x33#8 then .op (.ldB x) else if nn = 0x55#8 then .op (.ldMemVx x)
    else if nn = 0x65#8 then .op (.ldVxMem x) else .unknown := by
  simp only [decodeFamilyF, ← BitVec.toNat_inj]
  split <;> simp_all

namespace Machine

/-- Settles O4: by the equation of each leading nibble, and what the dispatches of 5, 8 and 9 can decode to. -/
theorem leadingNibbleSelectsOperation : Obligations.LeadingNibbleSelectsOperation := fun _ =>
  ⟨decodeWord_of_lead_1, decodeWord_of_lead_2, decodeWord_of_lead_A, decodeWord_of_lead_B, decodeWord_of_lead_3,
    decodeWord_of_lead_4, decodeWord_of_lead_6, decodeWord_of_lead_7, decodeWord_of_lead_C, decodeWord_of_lead_D,
    fun _ hl hop => (decodeWhenN0_eq_op.1 ((decodeWord_of_lead_5 hl).symm.trans hop)).2,
    fun _ hl hop => (decodeWhenN0_eq_op.1 ((decodeWord_of_lead_9 hl).symm.trans hop)).2,
    fun _ hl hop => mem_of_decodeFamily8_eq_op ((decodeWord_of_lead_8 hl).symm.trans hop)⟩

/-- Settles O5: the word's trailing nibble alone decides in the dispatch of leading nibble 8. -/
theorem trailingNibbleSelectsAluOperation : Obligations.TrailingNibbleSelectsAluOperation := by
  intro w hl
  have select (n : Nibble) (hn : fieldN w = n) : decodeWord w = decodeFamily8 (fieldX w) (fieldY w) n :=
    hn ▸ decodeWord_of_lead_8 hl
  exact ⟨select 0x0, select 0x1, select 0x2, select 0x3, select 0x4, select 0x5, select 0x6, select 0x7, select 0xE,
    fun hn => (decodeWord_of_lead_8 hl).trans (decodeFamily8_eq_unknown hn)⟩

/-- Settles O6: by the dispatches of leading nibbles E and F as comparisons of the trailing byte. -/
theorem trailingByteSelectsOperation : Obligations.TrailingByteSelectsOperation := fun _ =>
  ⟨fun hl => (decodeWord_of_lead_E hl).trans decodeFamilyE_eq_ite,
    fun hl => (decodeWord_of_lead_F hl).trans decodeFamilyF_eq_ite⟩

end Machine
end Sys2Proof
end

section
/-! PROOFS of the family `40_address_only.md`: the frames of a write to `PC` and to `I`, and the two operations that set
one of them to `NNN`. -/

namespace Sys2Proof.Machine

/-- The extension keeps the value, so bits 15..12 of the word are 0 (40_address_only.md R101, R103). -/
@[simp] theorem toNat_zextAddr (nnn : Addr) : (zextAddr nnn).toNat = nnn.toNat :=
  BitVec.toNat_setWidth_of_le (by decide)

/-! ### The frames of the two writes -/

theorem State.setPc_sameExcept (s : State) (w : Word) : SameExcept [.pc] s (s.setPc w) := by
  intro p hp
  cases p
  case pc => exact absurd (List.mem_singleton_self _) hp
  all_goals simp [SamePart]

theorem State.setI_sameExcept (s : State) (w : Word) : SameExcept [.i] s (s.setI w) := by
  intro p hp
  cases p
  case i => exact absurd (List.mem_singleton_self _) hp
  all_goals simp [SamePart]

/-! ### The two operations -/

theorem exec_jp (s : State) (nnn : Addr) : exec (.jp nnn) s = .next (s.setPc (zextAddr nnn)) := rfl

theorem exec_ldI (s : State) (nnn : Addr) : exec (.ldI nnn) s = .next (s.setI (zextAddr nnn)) := rfl

/-- Settles O13: leading nibble 1 decodes to `JP`, which writes the extended `NNN` to `PC` alone. -/
theorem jumpSetsPc : Obligations.JumpSetsPc :=
  ⟨fun _ hl => decodeWord_of_lead_1 hl,
    fun s nnn => ⟨_, exec_jp s nnn, toNat_zextAddr nnn, s.setPc_sameExcept _⟩⟩

/-- Settles O18: leading nibble A decodes to `LD_I`, which writes the extended `NNN` to `I` alone. -/
theorem loadIndexSetsI : Obligations.LoadIndexSetsI :=
  ⟨fun _ hl => decodeWord_of_lead_A hl,
    fun s nnn => ⟨_, exec_ldI s nnn, toNat_zextAddr nnn, s.setI_sameExcept _⟩⟩

end Sys2Proof.Machine
end

section
/-! PROOFS of the family `41_register_immediate.md`: a write to one register, a conditional skip, and the operations that
do one of them with `NN`. -/

namespace Sys2Proof.Machine

/-! ### The frames of a register write and of a skip -/

theorem State.setV_sameExcept (s : State) (x : Nibble) (b : Byte) : SameExcept [.v] s (s.setV x b) := by
  intro p hp
  cases p
  case v => exact absurd (List.mem_singleton_self _) hp
  all_goals simp [SamePart]

theorem State.skipIf_sameExcept (s : State) (c : Bool) : SameExcept [.pc] s (s.skipIf c) := by
  intro p hp
  cases p
  case pc => exact absurd (List.mem_singleton_self _) hp
  all_goals simp [SamePart]

/-! ### The `PC` after a skip on a comparison -/

theorem State.toNat_skipIf_pc (s : State) (c : Bool) :
    (s.skipIf c).pc.toNat = if c then (s.pc.toNat + 2) % 65536 else s.pc.toNat := by
  cases c <;> simp

/-- A skip on equal (41_register_immediate.md R110, 42_register_register.md R125). -/
theorem State.toNat_skipIf_aluEq_pc (s : State) (a b : Byte) :
    (s.skipIf (aluEq a b)).pc.toNat = if a = b then (s.pc.toNat + 2) % 65536 else s.pc.toNat := by
  simp only [State.toNat_skipIf_pc, aluEq, decide_eq_true_eq]

/-- A skip on not equal, its complement (41_register_immediate.md R111, 42_register_register.md R135). -/
theorem State.toNat_skipIf_not_aluEq_pc (s : State) (a b : Byte) :
    (s.skipIf (!aluEq a b)).pc.toNat = if a = b then s.pc.toNat else (s.pc.toNat + 2) % 65536 := by
  simp only [State.toNat_skipIf_pc, aluEq, Bool.not_eq_true', decide_eq_false_iff_not, ite_not]

/-! ### The operations -/

section
variable (s : State) (x : Nibble) (nn : Byte)

theorem exec_seImm : exec (.seImm x nn) s = .next (s.skipIf (aluEq (s.reg x) nn)) := rfl

theorem exec_sneImm : exec (.sneImm x nn) s = .next (s.skipIf (!aluEq (s.reg x) nn)) := rfl

theorem exec_ldImm : exec (.ldImm x nn) s = .next (s.setV x nn) := rfl

theorem exec_addImm : exec (.addImm x nn) s = .next (s.setV x (aluAddi (s.reg x) nn)) := rfl

end

/-- The sum is narrowed to 8 bits (42_register_register.md R120). -/
@[simp] theorem toNat_aluAddi (a b : Byte) : (aluAddi a b).toNat = (a.toNat + b.toNat) % 256 :=
  BitVec.toNat_ofNat _ _

theorem State.setV_reg_same (s : State) (x : Nibble) (b : Byte) : (s.setV x b).reg x = b := by
  simp

theorem State.setV_reg_of_ne (s : State) {x r : Nibble} (b : Byte) (h : r ≠ x) : (s.setV x b).reg r = s.reg r := by
  simp [h]

/-- Settles O21: leading nibbles 3 and 4 decode to the skips on one comparison and on its negation. -/
theorem immediateSkips : Obligations.ImmediateSkips :=
  ⟨fun _ hl => decodeWord_of_lead_3 hl, fun _ hl => decodeWord_of_lead_4 hl,
    fun s x nn => ⟨_, _, exec_seImm s x nn, exec_sneImm s x nn, s.toNat_skipIf_aluEq_pc _ _,
      s.toNat_skipIf_not_aluEq_pc _ _, s.skipIf_sameExcept _, s.skipIf_sameExcept _⟩⟩

/-- Settles O23: leading nibble 7 decodes to `ADD_IMM`, which writes the narrowed sum to `V[X]` alone. -/
theorem addImmediateWrapsWithoutFlag : Obligations.AddImmediateWrapsWithoutFlag := by
  refine ⟨fun _ hl => decodeWord_of_lead_7 hl, fun s x nn => ⟨_, exec_addImm s x nn, ?sum, ?others, ?frame⟩⟩
  case sum => rw [State.setV_reg_same, toNat_aluAddi]
  case others => exact fun _ hr => s.setV_reg_of_ne _ hr
  case frame => exact s.setV_sameExcept x _

/-- Settles O22: leading nibble 6 decodes to `LD_IMM`, which writes `NN` to `V[X]` alone. -/
theorem loadImmediateSetsVx : Obligations.LoadImmediateSetsVx :=
  ⟨fun _ hl => decodeWord_of_lead_6 hl,
    fun s x nn => ⟨_, exec_ldImm s x nn, fun r => s.setV_reg x r nn, s.setV_sameExcept x nn⟩⟩

end Sys2Proof.Machine
end

section
/-! PROOFS of the family `42_register_register.md`: the dispatch of leading nibble 8, a result written with its flag, and
the values of the ALU functions. -/

namespace Sys2Proof

/-- Leading nibble 8 at a known trailing nibble, where the second-level dispatch computes (30_encoding.md R86). -/
theorem decodeWord_of_lead_8_trailing {w : Word} {n : Nibble} (hl : leadNibble w = 0x8#4) (hn : fieldN w = n) :
    decodeWord w = decodeFamily8 (fieldX w) (fieldY w) n :=
  hn ▸ decodeWord_of_lead_8 hl

namespace Machine

/-! ### A result written with its flag (42_register_register.md R124) -/

/-- Both writes of a result go to the registers. -/
theorem State.setResult_sameExcept (s : State) (x : Nibble) (rf : Byte × Bool) :
    SameExcept [.v] s (s.setResult x rf) := by
  intro p hp
  cases p
  case v => exact absurd (List.mem_singleton_self _) hp
  all_goals simp [SamePart]

/-- The flag is written last, so it stands in `V[15]` whatever the destination. -/
theorem State.setResult_reg_flag (s : State) (x : Nibble) (rf : Byte × Bool) :
    (s.setResult x rf).reg 15#4 = flagByte rf.2 := by
  rw [State.setResult_reg, if_pos rfl]

theorem State.setResult_reg_dest (s : State) {x : Nibble} (rf : Byte × Bool) (hx : x ≠ 15#4) :
    (s.setResult x rf).reg x = rf.1 := by
  rw [State.setResult_reg, if_neg hx, if_pos rfl]

theorem State.setResult_reg_of_ne (s : State) {x r : Nibble} (rf : Byte × Bool) (hx : r ≠ x) (hf : r ≠ 15#4) :
    (s.setResult x rf).reg r = s.reg r := by
  rw [State.setResult_reg, if_neg hf, if_neg hx]

/-! ### The ALU functions: result, then flag (42_register_register.md R120) -/

section
variable (a b : Byte)

theorem toNat_aluAdd : (aluAdd a b).1.toNat = (a.toNat + b.toNat) % 256 := BitVec.toNat_ofNat _ _

theorem flagByte_aluAdd : flagByte (aluAdd a b).2 = if a.toNat + b.toNat > 255 then 1#8 else 0#8 := by
  simp only [flagByte, aluAdd, decide_eq_true_eq]

/-- The bit vector's difference is the integer one, narrowed. -/
theorem toNat_aluSub : ((aluSub a b).1.toNat : Int) = (a.toNat - b.toNat : Int) % 256 := by
  have narrowed : (aluSub a b).1.toNat = (256 - b.toNat + a.toNat) % 256 := BitVec.toNat_sub a b
  have := b.isLt
  omega

theorem flagByte_aluSub : flagByte (aluSub a b).2 = if a.toNat < b.toNat then 0#8 else 1#8 := by
  simp only [flagByte, aluSub, Bool.not_eq_true', decide_eq_false_iff_not, ite_not]

/-- The reverse subtraction is the subtraction with its operands exchanged. -/
theorem aluSubn_eq_aluSub : aluSubn a b = aluSub b a := rfl

theorem toNat_flagByte (f : Bool) : (flagByte f).toNat = f.toNat := by
  cases f <;> rfl

theorem toNat_aluShr : (aluShr a).1.toNat = a.toNat / 2 := by
  rw [aluShr, BitVec.toNat_ushiftRight, Nat.shiftRight_one]

/-- Bit 0 is the remainder modulo 2. -/
theorem toNat_flagByte_aluShr : (flagByte (aluShr a).2).toNat = a.toNat % 2 := by
  rw [toNat_flagByte, aluShr, BitVec.getLsbD, Nat.toNat_testBit, pow_zero, Nat.div_one]

theorem toNat_aluShl : (aluShl a).1.toNat = a.toNat * 2 % 256 := by
  rw [aluShl, BitVec.toNat_shiftLeft, Nat.shiftLeft_eq, pow_one]

/-- Bit 7 is the highest one of a byte, so nothing is left to reduce modulo 2. -/
theorem toNat_flagByte_aluShl : (flagByte (aluShl a).2).toNat = a.toNat / 128 := by
  rw [toNat_flagByte, aluShl, BitVec.getLsbD, Nat.toNat_testBit]
  have := a.isLt
  omega

end

/-! ### The operations -/

section
variable (s : State) (x y : Nibble)

theorem exec_ldReg : exec (.ldReg x y) s = .next (s.setV x (s.reg y)) := rfl

theorem exec_orReg : exec (.orReg x y) s = .next (s.setV x (s.reg x ||| s.reg y)) := rfl

theorem exec_andReg : exec (.andReg x y) s = .next (s.setV x (s.reg x &&& s.reg y)) := rfl

theorem exec_xorReg : exec (.xorReg x y) s = .next (s.setV x (s.reg x ^^^ s.reg y)) := rfl

theorem exec_addReg : exec (.addReg x y) s = .next (s.setResult x (aluAdd (s.reg x) (s.reg y))) := rfl

theorem exec_sub : exec (.sub x y) s = .next (s.setResult x (aluSub (s.reg x) (s.reg y))) := rfl

theorem exec_subn : exec (.subn x y) s = .next (s.setResult x (aluSubn (s.reg x) (s.reg y))) := rfl

theorem exec_shr : exec (.shr x y) s = .next (s.setResult x (aluShr (s.reg x))) := rfl

theorem exec_shl : exec (.shl x y) s = .next (s.setResult x (aluShl (s.reg x))) := rfl

end

/-- An instruction that writes `V[X]`: how every register reads afterwards, and its frame. -/
theorem exists_next_of_exec_eq_setV {s : State} {i : Instr} {x : Nibble} {b : Byte}
    (h : exec i s = .next (s.setV x b)) :
    ∃ t, exec i s = .next t ∧ (∀ r, t.reg r = if r = x then b else s.reg r) ∧ SameExcept [.v] s t :=
  ⟨_, h, fun r => s.setV_reg x r b, s.setV_sameExcept x b⟩

/-- Settles O26: the four trailing nibbles decode to operations that write `V[X]` alone. -/
theorem moveAndLogicWriteVxOnly : Obligations.MoveAndLogicWriteVxOnly := by
  refine ⟨fun w hl => ?decode, fun s x y => ?execute⟩
  case decode =>
    exact ⟨decodeWord_of_lead_8_trailing hl, decodeWord_of_lead_8_trailing hl, decodeWord_of_lead_8_trailing hl,
      decodeWord_of_lead_8_trailing hl⟩
  case execute =>
    exact ⟨exists_next_of_exec_eq_setV (exec_ldReg s x y), exists_next_of_exec_eq_setV (exec_orReg s x y),
      exists_next_of_exec_eq_setV (exec_andReg s x y), exists_next_of_exec_eq_setV (exec_xorReg s x y)⟩

/-- Settles O27: the sum and its carry, written as a result with its flag. -/
theorem addRegisterSetsSumAndCarry : Obligations.AddRegisterSetsSumAndCarry := by
  refine ⟨fun _ hl hn => decodeWord_of_lead_8_trailing hl hn,
    fun s x y => ⟨_, exec_addReg s x y, ?carry, fun hx => ?sum, ?others, s.setResult_sameExcept x _⟩⟩
  case carry => rw [State.setResult_reg_flag, flagByte_aluAdd]
  case sum => rw [s.setResult_reg_dest _ hx, toNat_aluAdd]
  case others => exact fun _ => s.setResult_reg_of_ne _

/-- Settles O28: the difference and its not-borrow, written as a result with its flag. -/
theorem subSetsDifferenceAndNotBorrow : Obligations.SubSetsDifferenceAndNotBorrow := by
  refine ⟨fun _ hl hn => decodeWord_of_lead_8_trailing hl hn,
    fun s x y => ⟨_, exec_sub s x y, ?notBorrow, fun hx => ?difference, ?others, s.setResult_sameExcept x _⟩⟩
  case notBorrow => rw [State.setResult_reg_flag, flagByte_aluSub]
  case difference => rw [s.setResult_reg_dest _ hx, toNat_aluSub]
  case others => exact fun _ => s.setResult_reg_of_ne _

/-- Settles O29: the subtraction with its operands exchanged, written as a result with its flag. -/
theorem subnSetsReverseDifferenceAndNotBorrow : Obligations.SubnSetsReverseDifferenceAndNotBorrow := by
  refine ⟨fun _ hl hn => decodeWord_of_lead_8_trailing hl hn,
    fun s x y => ⟨_, exec_subn s x y, ?notBorrow, fun hx => ?difference, ?others, s.setResult_sameExcept x _⟩⟩
  case notBorrow => rw [State.setResult_reg_flag, aluSubn_eq_aluSub, flagByte_aluSub]
  case difference => rw [s.setResult_reg_dest _ hx, aluSubn_eq_aluSub, toNat_aluSub]
  case others => exact fun _ => s.setResult_reg_of_ne _

/-- Settles O30: half and double of `V[X]` with the bit shifted out, each written as a result with its flag. -/
theorem shiftsMoveVxByOneBit : Obligations.ShiftsMoveVxByOneBit := by
  refine ⟨fun w hl => ⟨decodeWord_of_lead_8_trailing hl, decodeWord_of_lead_8_trailing hl⟩, fun s x y =>
    ⟨_, _, exec_shr s x y, exec_shl s x y, ?bit0, ?bit7, fun hx => ⟨?half, ?double⟩, ?others,
      s.setResult_sameExcept x _, s.setResult_sameExcept x _⟩⟩
  case bit0 => rw [State.setResult_reg_flag, toNat_flagByte_aluShr]
  case bit7 => rw [State.setResult_reg_flag, toNat_flagByte_aluShl]
  case half => rw [s.setResult_reg_dest _ hx, toNat_aluShr]
  case double => rw [s.setResult_reg_dest _ hx, toNat_aluShl]
  case others => exact fun _ hx hf => ⟨s.setResult_reg_of_ne _ hx hf, s.setResult_reg_of_ne _ hx hf⟩

end Machine
end Sys2Proof
end

section
/-! PROOFS of the family `44_single_register.md`: the rows with mask 0xF0FF, the frames of a write to a timer and to memory,
and a block of memory stored from `I` or loaded from there. -/

namespace Sys2Proof

/-! ### A word's row under the mask 0xF0FF (30_encoding.md R90)

The mask keeps the leading nibble and the trailing byte, on which the two dispatches depend. -/

section
variable {w m : Word}

theorem leadNibble_and_F0FF (w : Word) : leadNibble (w &&& 0xF0FF#16) = leadNibble w := by
  have kept : (0xF0FF#16).extractLsb' 12 4 = BitVec.allOnes 4 := by decide
  rw [leadNibble, BitVec.extractLsb'_and, kept, BitVec.and_allOnes, leadNibble]

theorem fieldNN_and_F0FF (w : Word) : fieldNN (w &&& 0xF0FF#16) = fieldNN w := by
  have kept : (0xF0FF#16).extractLsb' 0 8 = BitVec.allOnes 8 := by decide
  rw [fieldNN, BitVec.extractLsb'_and, kept, BitVec.and_allOnes, fieldNN]

theorem decodeWord_of_and_F0FF_lead_E (h : w &&& 0xF0FF#16 = m) (hl : leadNibble m = 0xE#4) :
    decodeWord w = decodeFamilyE (fieldX w) (fieldNN m) := by
  subst h
  rw [leadNibble_and_F0FF] at hl
  rw [fieldNN_and_F0FF, decodeWord_of_lead_E hl]

theorem decodeWord_of_and_F0FF_lead_F (h : w &&& 0xF0FF#16 = m) (hl : leadNibble m = 0xF#4) :
    decodeWord w = decodeFamilyF (fieldX w) (fieldNN m) := by
  subst h
  rw [leadNibble_and_F0FF] at hl
  rw [fieldNN_and_F0FF, decodeWord_of_lead_F hl]

end

namespace Machine

/-! ### The operations, as the writes they are -/

section
variable (s : State) (x : Nibble)

theorem exec_skp : exec (.skp x) s = .next (s.skipIf (s.keyAt (keyIndex (s.reg x)))) := rfl

theorem exec_sknp : exec (.sknp x) s = .next (s.skipIf (!s.keyAt (keyIndex (s.reg x)))) := rfl

theorem exec_ldVxDt : exec (.ldVxDt x) s = .next (s.setV x s.dt) := rfl

theorem exec_ldDtVx : exec (.ldDtVx x) s = .next (s.setDt (s.reg x)) := rfl

theorem exec_ldStVx : exec (.ldStVx x) s = .next (s.setSt (s.reg x)) := rfl

theorem exec_ldB : exec (.ldB x) s =
    .next (((s.writeByte (s.dataAddr 0) (hundreds (s.reg x))).writeByte (s.dataAddr 1) (tens (s.reg x))).writeByte
      (s.dataAddr 2) (ones (s.reg x))) := rfl

theorem exec_ldMemVx : exec (.ldMemVx x) s = .next (s.setMem (s.storeRegs (s.dataAddr 0) (x.toNat + 1))) := rfl

theorem exec_ldVxMem : exec (.ldVxMem x) s = .next (s.loadRegs (s.dataAddr 0) (x.toNat + 1)) := rfl

end

/-! ### The key skips (44_single_register.md R150, R151) -/

theorem keyIndex_eq_ofNat (b : Byte) : keyIndex b = BitVec.ofNat 4 (b.toNat % 16) := by
  apply BitVec.eq_of_toNat_eq
  simp [keyIndex]

theorem State.toNat_skipIf_not_pc (s : State) (c : Bool) :
    (s.skipIf (!c)).pc.toNat = if c then s.pc.toNat else (s.pc.toNat + 2) % 65536 := by
  cases c <;> simp

/-- Settles O34: the two words decode to the skips on the state of one key and on its negation. -/
theorem keySkips : Obligations.KeySkips := by
  refine ⟨fun _ h => decodeWord_of_and_F0FF_lead_E h rfl, fun _ h => decodeWord_of_and_F0FF_lead_E h rfl,
    fun s x => ⟨_, _, exec_skp s x, exec_sknp s x, ?pressed, ?notPressed, s.skipIf_sameExcept _,
      s.skipIf_sameExcept _⟩⟩
  case pressed => rw [State.toNat_skipIf_pc, keyIndex_eq_ofNat]
  case notPressed => rw [State.toNat_skipIf_not_pc, keyIndex_eq_ofNat]

/-! ### The timers (44_single_register.md R152, R154, R155) -/

theorem State.setDt_sameExcept (s : State) (b : Byte) : SameExcept [.dt] s (s.setDt b) := by
  intro p hp
  cases p
  case dt => exact absurd (List.mem_singleton_self _) hp
  all_goals simp [SamePart]

theorem State.setSt_sameExcept (s : State) (b : Byte) : SameExcept [.st] s (s.setSt b) := by
  intro p hp
  cases p
  case st => exact absurd (List.mem_singleton_self _) hp
  all_goals simp [SamePart]

/-- A byte is above 0 exactly when it is not 0. -/
theorem State.soundActive_iff (s : State) : s.soundActive = true ↔ s.st ≠ 0#8 := by
  rw [State.soundActive, decide_eq_true_eq, Nat.pos_iff_ne_zero, ne_eq, ne_eq, ← BitVec.toNat_inj, BitVec.toNat_zero]

/-- Settles O35: the three words decode to the writes of `DT` to `V[X]`, and of `V[X]` to `DT` and to `ST`. -/
theorem timerRegistersMove : Obligations.TimerRegistersMove := by
  refine ⟨fun _ h => decodeWord_of_and_F0FF_lead_F h rfl, fun _ h => decodeWord_of_and_F0FF_lead_F h rfl,
    fun _ h => decodeWord_of_and_F0FF_lead_F h rfl, fun s x => ⟨?readDt, ?writeDt, ?writeSt⟩⟩
  case readDt => exact exists_next_of_exec_eq_setV (exec_ldVxDt s x)
  case writeDt => exact ⟨_, exec_ldDtVx s x, rfl, s.setDt_sameExcept _⟩
  case writeSt => exact ⟨_, exec_ldStVx s x, rfl, State.soundActive_iff _, s.setSt_sameExcept _⟩

/-! ### A block stored from `I` upward (44_single_register.md R158, R159) -/

theorem State.setMem_sameExcept (s : State) (m : Memory) : SameExcept [.mem] s (s.setMem m) := by
  intro p hp
  cases p
  case mem => exact absurd (List.mem_singleton_self _) hp
  all_goals simp [SamePart]

section
variable {s t : State} {len : Nat} {stored : Nat → Byte}

theorem HoldsStore.readByte_dataAddr (h : HoldsStore s t len stored) (k : Nat) (hk : k < len) :
    t.readByte (s.dataAddr k) = stored k :=
  (h _).1 k hk rfl

theorem HoldsStore.readByte_of_forall_ne (h : HoldsStore s t len stored) {a : Nat}
    (ha : ∀ k, k < len → a % 4096 ≠ s.dataAddr k % 4096) : t.readByte a = s.readByte a :=
  (h a).2 ha

end

section
variable (v : Byte)

theorem toNat_hundreds : (hundreds v).toNat = v.toNat / 100 := by
  rw [hundreds, BitVec.toNat_ofNat]
  have := v.isLt
  omega

theorem toNat_tens : (tens v).toNat = v.toNat / 10 % 10 := by
  rw [tens, BitVec.toNat_ofNat]
  omega

theorem toNat_ones : (ones v).toNat = v.toNat % 10 := by
  rw [ones, BitVec.toNat_ofNat]
  omega

end

/-- Settles O39: the word decodes to `LD_B`, after which memory holds the three digits from `I` upward; the
three writes of a byte are one write of memory to the frame. -/
theorem bcdStoresThreeDigits : Obligations.BcdStoresThreeDigits := by
  refine ⟨fun _ h => decodeWord_of_and_F0FF_lead_F h rfl, fun s x => ?_⟩
  have holds := holdsStore_bcd s x
  refine ⟨_, exec_ldB s x, ?hundreds, ?tens, ?ones, fun a h0 h1 h2 => ?others, s.setMem_sameExcept _⟩
  case hundreds => exact (congrArg _ (holds.readByte_dataAddr 0 (by decide))).trans (toNat_hundreds _)
  case tens => exact (congrArg _ (holds.readByte_dataAddr 1 (by decide))).trans (toNat_tens _)
  case ones => exact (congrArg _ (holds.readByte_dataAddr 2 (by decide))).trans (toNat_ones _)
  case others =>
    refine holds.readByte_of_forall_ne fun k hk => ?_
    obtain rfl | rfl | rfl : k = 0 ∨ k = 1 ∨ k = 2 := by omega
    · exact h0
    · exact h1
    · exact h2

/-- Settles O40: the word decodes to `LD_MEM_VX`, after which memory holds `V[0]` to `V[X]` from `I` upward. -/
theorem dumpStoresRegisters : Obligations.DumpStoresRegisters := by
  refine ⟨fun _ h => decodeWord_of_and_F0FF_lead_F h rfl, fun s x => ?_⟩
  have holds := holdsStore_storeRegs s x
  refine ⟨_, exec_ldMemVx s x, fun k hk => ?registers, fun a ha => ?others, s.setMem_sameExcept _⟩
  case registers => rw [holds.readByte_dataAddr _ (Nat.lt_succ_of_le hk), BitVec.ofNat_toNat, BitVec.setWidth_eq]
  case others => exact holds.readByte_of_forall_ne fun k hk => ha k (Nat.le_of_lt_succ hk)

/-! ### Registers loaded from `I` upward (44_single_register.md R160) -/

theorem State.loadRegs_sameExcept (s : State) (base n : Nat) : SameExcept [.v] s (s.loadRegs base n) := by
  obtain ⟨v, h⟩ := s.loadRegs_eq base n
  rw [h]
  intro p hp
  cases p
  case v => exact absurd (List.mem_singleton_self _) hp
  all_goals simp [SamePart, State.readByte, State.pixelAt, State.keyAt]

/-- Settles O41: the word decodes to `LD_VX_MEM`, whose load writes the registers up to `X` alone. -/
theorem loadReadsRegisters : Obligations.LoadReadsRegisters := by
  refine ⟨fun _ h => decodeWord_of_and_F0FF_lead_F h rfl,
    fun s x => ⟨_, exec_ldVxMem s x, fun r => ?registers, s.loadRegs_sameExcept _ _⟩⟩
  case registers => simp only [s.loadRegs_reg _ _ x.isLt r, Nat.lt_succ_iff, State.dataAddr, Nat.add_zero]

end Machine
end Sys2Proof
end

section
/-! PROOFS of the family `60_exceptions.md`: a `Cycle` while the engine waits for a key, and the instructions that raise a
stack error. -/

namespace Sys2Proof.Machine

/-! ### A `Cycle` that does nothing (60_exceptions.md R186) -/

theorem State.clearOutputs_sameExcept (s : State) : SameExcept outputParts s s.clearOutputs := by
  intro p hp
  cases p
  case events => exact absurd (by decide) hp
  case loadResult => exact absurd (by decide) hp
  all_goals simp [SamePart]

/-- Settles O43: in `AwaitingKey` the `Cycle` clears the outputs, and that is all it does. -/
theorem waitingCycleChangesNothing : Obligations.WaitingCycleChangesNothing :=
  fun s _ b hwait => ⟨_, cycle_of_awaitingKey (some b) hwait, rfl, s.clearOutputs_sameExcept⟩

/-! ### The stack errors (60_exceptions.md R191, R192) -/

section
variable {s t : State} {i : Instr}

/-- A call with 16 entries in use raises the error in place of the push (60_exceptions.md R191). -/
theorem exec_call_of_full (nnn : Addr) (hfull : s.sp.val = 16) :
    exec (.call nnn) s = .next (s.raiseHalt .stackOverflow) := by
  have halts : s.callTo (zextAddr nnn) = s.raiseHalt .stackOverflow := by
    rcases s.callTo_cases (zextAddr nnn) with ⟨hroom, -⟩ | ⟨-, h⟩
    · omega
    · exact h
  exact congrArg _ halts

/-- A return with no entry in use raises the error in place of the pop (60_exceptions.md R192). -/
theorem exec_ret_of_empty (hempty : s.sp.val = 0) : exec .ret s = .next (s.raiseHalt .stackUnderflow) := by
  have halts : s.returnFromCall = s.raiseHalt .stackUnderflow := by
    rcases s.returnFromCall_cases with ⟨hused, -⟩ | ⟨-, h⟩
    · omega
    · exact h
  exact congrArg _ halts

/-- An instruction that halts a running engine is a call on a full stack or a return on an empty one, and it changes
nothing but the engine state. -/
theorem exec_halted_cases (hrun : s.es = .running) (hexec : exec i s = .next t) {r : HaltReason}
    (hhalt : t.es = .halted r) :
    ((∃ nnn, i = .call nnn) ∧ s.sp.val = 16 ∧ t = s.raiseHalt .stackOverflow) ∨
    (i = .ret ∧ s.sp.val = 0 ∧ t = s.raiseHalt .stackUnderflow) := by
  obtain ⟨t', hexec', -, -, -, -, -, -, hes⟩ := exec_next i s
  obtain rfl : t' = t := Host.Outcome.next.inj (hexec'.symm.trans hexec)
  rw [hhalt, hrun] at hes
  cases i
  case call nnn =>
    have hfull : s.sp.val = 16 := by
      by_contra hroom
      simp [hroom] at hes
    exact .inl ⟨⟨nnn, rfl⟩, hfull, Host.Outcome.next.inj (hexec.symm.trans (exec_call_of_full nnn hfull))⟩
  case ret =>
    have hempty : s.sp.val = 0 := by
      by_contra hused
      simp [hused] at hes
    exact .inr ⟨rfl, hempty, Host.Outcome.next.inj (hexec.symm.trans (exec_ret_of_empty hempty))⟩
  all_goals simp at hes

/-- A running engine halts by `StackOverflow` exactly for a call on a full stack (60_exceptions.md R191). -/
theorem exec_es_eq_stackOverflow_iff (hrun : s.es = .running) (hexec : exec i s = .next t) :
    t.es = .halted .stackOverflow ↔ (∃ nnn, i = .call nnn) ∧ s.sp.val = 16 := by
  constructor
  · intro hhalt
    rcases exec_halted_cases hrun hexec hhalt with ⟨hcall, hfull, -⟩ | ⟨-, -, rfl⟩
    · exact ⟨hcall, hfull⟩
    · simp at hhalt
  · rintro ⟨⟨nnn, rfl⟩, hfull⟩
    obtain rfl := Host.Outcome.next.inj (hexec.symm.trans (exec_call_of_full nnn hfull))
    rfl

/-- A running engine halts by `StackUnderflow` exactly for a return on an empty stack (60_exceptions.md R192). -/
theorem exec_es_eq_stackUnderflow_iff (hrun : s.es = .running) (hexec : exec i s = .next t) :
    t.es = .halted .stackUnderflow ↔ i = .ret ∧ s.sp.val = 0 := by
  constructor
  · intro hhalt
    rcases exec_halted_cases hrun hexec hhalt with ⟨-, -, rfl⟩ | ⟨hret, hempty, -⟩
    · simp at hhalt
    · exact ⟨hret, hempty⟩
  · rintro ⟨rfl, hempty⟩
    obtain rfl := Host.Outcome.next.inj (hexec.symm.trans (exec_ret_of_empty hempty))
    rfl

/-- A halt of a running engine leaves the stack as it was: the test precedes the push or the pop. -/
theorem exec_halted_stack (hrun : s.es = .running) (hexec : exec i s = .next t) {r : HaltReason}
    (hhalt : t.es = .halted r) : t.stack = s.stack ∧ t.sp = s.sp := by
  rcases exec_halted_cases hrun hexec hhalt with ⟨-, -, rfl⟩ | ⟨-, -, rfl⟩ <;> exact ⟨rfl, rfl⟩

end

/-- Settles O55: every instruction answers a next state, and it halts in the two cases of `exec_halted_cases` alone. -/
theorem onlyCallAndReturnRaiseStackErrors : Obligations.OnlyCallAndReturnRaiseStackErrors := by
  intro i s hrun
  obtain ⟨t, hexec, -⟩ := exec_next i s
  exact ⟨t, hexec, exec_es_eq_stackOverflow_iff hrun hexec, exec_es_eq_stackUnderflow_iff hrun hexec,
    fun _ => exec_halted_stack hrun hexec⟩

end Sys2Proof.Machine
end

section
/-! PROOFS across the families, the decoder and the encoder (30_encoding.md): the word of an instruction is decoded to it,
a word that decodes is the word of its instruction, and which words decode to nothing. -/

namespace Sys2Proof

variable {w : Word} {l x y n : Nibble} {nn : Byte} {nnn : Addr} {i : Instr}

theorem nibble_cases (l : Nibble) :
    l = 0x0#4 ∨ l = 0x1#4 ∨ l = 0x2#4 ∨ l = 0x3#4 ∨ l = 0x4#4 ∨ l = 0x5#4 ∨ l = 0x6#4 ∨ l = 0x7#4 ∨
    l = 0x8#4 ∨ l = 0x9#4 ∨ l = 0xA#4 ∨ l = 0xB#4 ∨ l = 0xC#4 ∨ l = 0xD#4 ∨ l = 0xE#4 ∨ l = 0xF#4 := by
  revert l
  decide

/-! ### The decoder on packed words (30_encoding.md R84, R97) -/

theorem decodeWord_of_lead_0 (h : leadNibble w = 0x0#4) : decodeWord w = .op (decodeFamily0 w) := by
  rw [decodeWord, h]; rfl

/-- The address field tells the words of leading nibble 0 apart (30_encoding.md R85). -/
theorem packA_zero_inj {a : Addr} : packA 0x0#4 nnn = packA 0x0#4 a ↔ nnn = a :=
  ⟨fun h => by rw [← fieldNNN_packA 0x0#4 nnn, h, fieldNNN_packA], fun h => h ▸ rfl⟩

theorem wellFormed_sys : (Instr.sys nnn).wellFormed = true ↔ nnn ≠ 0x0E0#12 ∧ nnn ≠ 0x0EE#12 := by
  simp [Instr.wellFormed]

theorem decodeWord_encode_sys (h : (Instr.sys nnn).wellFormed = true) :
    decodeWord (encode (.sys nnn)) = .op (.sys nnn) := by
  obtain ⟨hcls, hret⟩ := wellFormed_sys.1 h
  have notCls : packA 0x0#4 nnn ≠ 0x00E0#16 := fun e => hcls (packA_zero_inj.1 e)
  have notRet : packA 0x0#4 nnn ≠ 0x00EE#16 := fun e => hret (packA_zero_inj.1 e)
  rw [encode, decodeWord_of_lead_0 (leadNibble_packA _ _), decodeFamily0, if_neg notCls, if_neg notRet, fieldNNN_packA]

theorem decodeWord_packRR_5 : decodeWord (packRR 0x5#4 x y n) = decodeWhenN0 (.seReg x y) n := by
  rw [decodeWord_of_lead_5 (leadNibble_packRR _ _ _ _), fieldX_packRR, fieldY_packRR, fieldN_packRR]

theorem decodeWord_packRR_8 : decodeWord (packRR 0x8#4 x y n) = decodeFamily8 x y n := by
  rw [decodeWord_of_lead_8 (leadNibble_packRR _ _ _ _), fieldX_packRR, fieldY_packRR, fieldN_packRR]

theorem decodeWord_packRR_9 : decodeWord (packRR 0x9#4 x y n) = decodeWhenN0 (.sneReg x y) n := by
  rw [decodeWord_of_lead_9 (leadNibble_packRR _ _ _ _), fieldX_packRR, fieldY_packRR, fieldN_packRR]

theorem decodeWord_packRI_E : decodeWord (packRI 0xE#4 x nn) = decodeFamilyE x nn := by
  rw [decodeWord_of_lead_E (leadNibble_packRI _ _ _), fieldX_packRI, fieldNN_packRI]

theorem decodeWord_packRI_F : decodeWord (packRI 0xF#4 x nn) = decodeFamilyF x nn := by
  rw [decodeWord_of_lead_F (leadNibble_packRI _ _ _), fieldX_packRI, fieldNN_packRI]

/-- The rows with a free `NNN` or `NN` have a leading nibble of their own; the others are found by the second-level
dispatch, which computes on the constant field. -/
theorem decodeWord_encode (h : i.wellFormed = true) : decodeWord (encode i) = .op i := by
  cases i
  case cls => rfl
  case ret => rfl
  case sys nnn => exact decodeWord_encode_sys h
  case jp nnn => rw [encode, decodeWord_of_lead_1 (leadNibble_packA _ _), fieldNNN_packA]
  case call nnn => rw [encode, decodeWord_of_lead_2 (leadNibble_packA _ _), fieldNNN_packA]
  case seImm x nn => rw [encode, decodeWord_of_lead_3 (leadNibble_packRI _ _ _), fieldX_packRI, fieldNN_packRI]
  case sneImm x nn => rw [encode, decodeWord_of_lead_4 (leadNibble_packRI _ _ _), fieldX_packRI, fieldNN_packRI]
  case seReg x y => exact decodeWord_packRR_5
  case ldImm x nn => rw [encode, decodeWord_of_lead_6 (leadNibble_packRI _ _ _), fieldX_packRI, fieldNN_packRI]
  case addImm x nn => rw [encode, decodeWord_of_lead_7 (leadNibble_packRI _ _ _), fieldX_packRI, fieldNN_packRI]
  case sneReg x y => exact decodeWord_packRR_9
  case ldI nnn => rw [encode, decodeWord_of_lead_A (leadNibble_packA _ _), fieldNNN_packA]
  case jpV0 nnn => rw [encode, decodeWord_of_lead_B (leadNibble_packA _ _), fieldNNN_packA]
  case rnd x nn => rw [encode, decodeWord_of_lead_C (leadNibble_packRI _ _ _), fieldX_packRI, fieldNN_packRI]
  case drw x y n =>
    rw [encode, decodeWord_of_lead_D (leadNibble_packRR _ _ _ _), fieldX_packRR, fieldY_packRR, fieldN_packRR]
  case ldReg | orReg | andReg | xorReg | addReg | sub | shr | subn | shl => exact decodeWord_packRR_8
  case skp | sknp => exact decodeWord_packRI_E
  case ldVxDt | ldVxK | ldDtVx | ldStVx | addI | ldF | ldB | ldMemVx | ldVxMem => exact decodeWord_packRI_F

/-! ### The encoder on decoded words (30_encoding.md R89, R97) -/

theorem packA_of_leadNibble (hl : leadNibble w = l) : packA l (fieldNNN w) = w :=
  hl ▸ BitVec.extractLsb'_append_extractLsb' (w := 4) (len := 12)

theorem packRI_of_leadNibble (hl : leadNibble w = l) : packRI l (fieldX w) (fieldNN w) = w := by
  have high : leadNibble w ++ fieldX w = highByte w := BitVec.extractLsb'_append_extractLsb'_eq_extractLsb' rfl
  subst hl
  exact (congrArg (· ++ fieldNN w) high).trans (wordOfBytes_bytes w)

theorem packRR_of_leadNibble (hl : leadNibble w = l) : packRR l (fieldX w) (fieldY w) (fieldN w) = w := by
  have low : fieldY w ++ fieldN w = fieldNN w := BitVec.extractLsb'_append_extractLsb'_eq_extractLsb' rfl
  exact (congrArg (packRI l (fieldX w)) low).trans (packRI_of_leadNibble hl)

theorem encode_decodeFamily0 (hl : leadNibble w = 0x0#4) :
    encode (decodeFamily0 w) = w ∧ (decodeFamily0 w).wellFormed = true := by
  have packed : packA 0x0#4 (fieldNNN w) = w := packA_of_leadNibble hl
  unfold decodeFamily0
  split_ifs with hcls hret
  · exact ⟨hcls.symm, rfl⟩
  · exact ⟨hret.symm, rfl⟩
  · exact ⟨packed, wellFormed_sys.2 ⟨fun e => hcls (by rw [← packed, e]; rfl), fun e => hret (by rw [← packed, e]; rfl)⟩⟩

theorem encode_of_decodeFamily8_eq_op (h : decodeFamily8 x y n = .op i) :
    encode i = packRR 0x8#4 x y n ∧ i.wellFormed = true := by
  rcases nibble_cases n with rfl | rfl | rfl | rfl | rfl | rfl | rfl | rfl | rfl | rfl | rfl | rfl | rfl | rfl | rfl | rfl
  all_goals cases h
  all_goals exact ⟨rfl, rfl⟩

theorem encode_of_decodeFamilyE_eq_op (h : decodeFamilyE x nn = .op i) :
    encode i = packRI 0xE#4 x nn ∧ i.wellFormed = true := by
  rw [decodeFamilyE_eq_ite] at h
  split_ifs at h with hnn hnn
  all_goals cases h; subst hnn; exact ⟨rfl, rfl⟩

theorem encode_of_decodeFamilyF_eq_op (h : decodeFamilyF x nn = .op i) :
    encode i = packRI 0xF#4 x nn ∧ i.wellFormed = true := by
  rw [decodeFamilyF_eq_ite] at h
  split_ifs at h with hnn hnn hnn hnn hnn hnn hnn hnn hnn
  all_goals cases h; subst hnn; exact ⟨rfl, rfl⟩

/-- By the leading nibble: the fields the decoder reads are all the bits of the word. -/
theorem encode_of_decodeWord_eq_op (h : decodeWord w = .op i) : encode i = w ∧ i.wellFormed = true := by
  rcases nibble_cases (leadNibble w) with
    hl | hl | hl | hl | hl | hl | hl | hl | hl | hl | hl | hl | hl | hl | hl | hl
  · cases (decodeWord_of_lead_0 hl).symm.trans h
    exact encode_decodeFamily0 hl
  · cases (decodeWord_of_lead_1 hl).symm.trans h
    exact ⟨packA_of_leadNibble hl, rfl⟩
  · cases (decodeWord_of_lead_2 hl).symm.trans h
    exact ⟨packA_of_leadNibble hl, rfl⟩
  · cases (decodeWord_of_lead_3 hl).symm.trans h
    exact ⟨packRI_of_leadNibble hl, rfl⟩
  · cases (decodeWord_of_lead_4 hl).symm.trans h
    exact ⟨packRI_of_leadNibble hl, rfl⟩
  · obtain ⟨hn, rfl⟩ := decodeWhenN0_eq_op.1 ((decodeWord_of_lead_5 hl).symm.trans h)
    have packed := packRR_of_leadNibble hl
    rw [hn] at packed
    exact ⟨packed, rfl⟩
  · cases (decodeWord_of_lead_6 hl).symm.trans h
    exact ⟨packRI_of_leadNibble hl, rfl⟩
  · cases (decodeWord_of_lead_7 hl).symm.trans h
    exact ⟨packRI_of_leadNibble hl, rfl⟩
  · rw [← packRR_of_leadNibble hl]
    exact encode_of_decodeFamily8_eq_op ((decodeWord_of_lead_8 hl).symm.trans h)
  · obtain ⟨hn, rfl⟩ := decodeWhenN0_eq_op.1 ((decodeWord_of_lead_9 hl).symm.trans h)
    have packed := packRR_of_leadNibble hl
    rw [hn] at packed
    exact ⟨packed, rfl⟩
  · cases (decodeWord_of_lead_A hl).symm.trans h
    exact ⟨packA_of_leadNibble hl, rfl⟩
  · cases (decodeWord_of_lead_B hl).symm.trans h
    exact ⟨packA_of_leadNibble hl, rfl⟩
  · cases (decodeWord_of_lead_C hl).symm.trans h
    exact ⟨packRI_of_leadNibble hl, rfl⟩
  · cases (decodeWord_of_lead_D hl).symm.trans h
    exact ⟨packRR_of_leadNibble hl, rfl⟩
  · have encoded := encode_of_decodeFamilyE_eq_op ((decodeWord_of_lead_E hl).symm.trans h)
    rwa [packRI_of_leadNibble hl] at encoded
  · have encoded := encode_of_decodeFamilyF_eq_op ((decodeWord_of_lead_F hl).symm.trans h)
    rwa [packRI_of_leadNibble hl] at encoded

/-! ### The words that decode to nothing (30_encoding.md R91) -/

theorem decodeWhenN0_eq_unknown : decodeWhenN0 i n = .unknown ↔ n ≠ 0x0#4 := by
  by_cases hn : n = 0#4 <;> simp [decodeWhenN0, hn]

theorem decodeFamily8_eq_unknown_iff :
    decodeFamily8 x y n = .unknown ↔ n ∈ [0x8#4, 0x9#4, 0xA#4, 0xB#4, 0xC#4, 0xD#4, 0xF#4] := by
  rcases nibble_cases n with rfl | rfl | rfl | rfl | rfl | rfl | rfl | rfl | rfl | rfl | rfl | rfl | rfl | rfl | rfl | rfl
  all_goals simp [decodeFamily8]

theorem decodeFamilyE_eq_unknown : decodeFamilyE x nn = .unknown ↔ nn ∉ [0x9E#8, 0xA1#8] := by
  rw [decodeFamilyE_eq_ite]
  split_ifs <;> simp_all

theorem decodeFamilyF_eq_unknown : decodeFamilyF x nn = .unknown ↔
    nn ∉ [0x07#8, 0x0A#8, 0x15#8, 0x18#8, 0x1E#8, 0x29#8, 0x33#8, 0x55#8, 0x65#8] := by
  rw [decodeFamilyF_eq_ite]
  split_ifs <;> simp_all

/-- By the leading nibble: eleven families decode every word, the other five leave the words of their second-level
dispatch. -/
theorem decodeWord_eq_unknown (w : Word) : decodeWord w = .unknown ↔
    ((leadNibble w = 0x5#4 ∨ leadNibble w = 0x9#4) ∧ fieldN w ≠ 0x0#4) ∨
    (leadNibble w = 0x8#4 ∧ fieldN w ∈ [0x8#4, 0x9#4, 0xA#4, 0xB#4, 0xC#4, 0xD#4, 0xF#4]) ∨
    (leadNibble w = 0xE#4 ∧ fieldNN w ∉ [0x9E#8, 0xA1#8]) ∨
    (leadNibble w = 0xF#4 ∧
      fieldNN w ∉ [0x07#8, 0x0A#8, 0x15#8, 0x18#8, 0x1E#8, 0x29#8, 0x33#8, 0x55#8, 0x65#8]) := by
  rcases nibble_cases (leadNibble w) with
    hl | hl | hl | hl | hl | hl | hl | hl | hl | hl | hl | hl | hl | hl | hl | hl
  · simp [decodeWord_of_lead_0 hl, hl]
  · simp [decodeWord_of_lead_1 hl, hl]
  · simp [decodeWord_of_lead_2 hl, hl]
  · simp [decodeWord_of_lead_3 hl, hl]
  · simp [decodeWord_of_lead_4 hl, hl]
  · simp [decodeWord_of_lead_5 hl, decodeWhenN0_eq_unknown, hl]
  · simp [decodeWord_of_lead_6 hl, hl]
  · simp [decodeWord_of_lead_7 hl, hl]
  · simp [decodeWord_of_lead_8 hl, decodeFamily8_eq_unknown_iff, hl]
  · simp [decodeWord_of_lead_9 hl, decodeWhenN0_eq_unknown, hl]
  · simp [decodeWord_of_lead_A hl, hl]
  · simp [decodeWord_of_lead_B hl, hl]
  · simp [decodeWord_of_lead_C hl, hl]
  · simp [decodeWord_of_lead_D hl, hl]
  · simp [decodeWord_of_lead_E hl, decodeFamilyE_eq_unknown, hl]
  · simp [decodeWord_of_lead_F hl, decodeFamilyF_eq_unknown, hl]

namespace Machine

/-- Settles O1: by the row of the instruction. -/
theorem decodeReadsBackEncode : Obligations.DecodeReadsBackEncode := fun _ => decodeWord_encode

/-- Settles O2: by the leading nibble of the word. -/
theorem encodeReadsBackDecode : Obligations.EncodeReadsBackDecode := fun _ _ => encode_of_decodeWord_eq_op

/-- Settles O7: by the leading nibble of the word, and the dispatches of 5, 8, 9, E and F. -/
theorem unknownWordsAreExactlyThese : Obligations.UnknownWordsAreExactlyThese := decodeWord_eq_unknown

/-- Settles O3: the seven words are the words of the instructions named, all well formed. -/
theorem sampleWordsDecode : Obligations.SampleWordsDecode :=
  ⟨decodeWord_encode (i := .addReg 0 1) rfl, decodeWord_encode (i := .ldImm 0 5) rfl, decodeWord_encode (i := .ret) rfl,
    decodeWord_encode (i := .sys 0x0E1) rfl, decodeWord_encode (i := .drw 1 2 5) rfl,
    decodeWord_encode (i := .ldVxMem 3) rfl, decodeWord_encode (i := .call 0x20C) rfl⟩

end Machine
end Sys2Proof
end

section
/-! PROOFS across the families, the execute phase one instruction at a time: frames compose, and with them the calls and
returns, the jumps, the screen, the random byte, the skips, `I`, and the round trips through a call and through memory. -/

namespace Sys2Proof.Machine

variable {p : StatePart} {c d : List StatePart} {s t u : State}

/-! ### Frames compose -/

theorem SamePart.trans (hst : SamePart p s t) (htu : SamePart p t u) : SamePart p s u := by
  cases p
  case mem | v | key => exact fun a => (htu a).trans (hst a)
  case fb => exact fun x y => (htu x y).trans (hst x y)
  all_goals exact Eq.trans htu hst

theorem SameExcept.mono (h : SameExcept c s t) (hcd : c ⊆ d) : SameExcept d s t :=
  fun p hp => h p fun hc => hp (hcd hc)

theorem SameExcept.trans (hst : SameExcept c s t) (htu : SameExcept d t u) : SameExcept (c ++ d) s u :=
  fun p hp => (hst p fun hc => hp (List.mem_append_left d hc)).trans (htu p fun hd => hp (List.mem_append_right c hd))

/-- A part that is as before need not be named. -/
theorem SameExcept.of_cons (h : SameExcept (p :: c) s t) (hp : SamePart p s t) : SameExcept c s t := by
  intro q hq
  by_cases hqp : q = p
  · exact hqp ▸ hp
  · exact h q fun hmem => (List.mem_cons.1 hmem).elim hqp hq

/-! ### The frames of the other updates -/

theorem State.sameExcept_nil (s : State) : SameExcept [] s s := by
  intro p _
  cases p
  case mem | v | key => exact fun _ => rfl
  case fb => exact fun _ _ => rfl
  all_goals rfl

theorem State.setPcSp_sameExcept (s : State) (w : Word) (n : Fin 17) :
    SameExcept [.pc, .sp] s { s with pc := w, sp := n } := by
  intro p hp
  cases p
  case pc | sp => exact absurd (by decide) hp
  case mem | v | key => exact fun _ => rfl
  case fb => exact fun _ _ => rfl
  all_goals rfl

theorem State.setStack_sameExcept (s : State) (st : Vector Word 16) : SameExcept [.stack] s { s with stack := st } := by
  intro p hp
  cases p
  case stack => exact absurd (by decide) hp
  case mem | v | key => exact fun _ => rfl
  case fb => exact fun _ _ => rfl
  all_goals rfl

theorem State.setDraws_sameExcept (s : State) (n : Nat) : SameExcept [.draws] s { s with draws := n } := by
  intro p hp
  cases p
  case draws => exact absurd (by decide) hp
  case mem | v | key => exact fun _ => rfl
  case fb => exact fun _ _ => rfl
  all_goals rfl

theorem State.setFb_sameExcept (s : State) (fb : Framebuffer) : SameExcept [.fb] s (s.setFb fb) := by
  intro p hp
  cases p
  case fb => exact absurd (by decide) hp
  all_goals simp [SamePart]

theorem State.emit_sameExcept (s : State) (e : Event) : SameExcept [.events] s (s.emit e) := by
  intro p hp
  cases p
  case events => exact absurd (by decide) hp
  all_goals simp [SamePart]

theorem State.setEs_sameExcept (s : State) (e : EngineState) : SameExcept [.es] s (s.setEs e) := by
  intro p hp
  cases p
  case es => exact absurd (by decide) hp
  all_goals simp [SamePart]

theorem State.setKey_sameExcept (s : State) (k : Nibble) (b : Bool) : SameExcept [.key] s (s.setKey k b) := by
  intro p hp
  cases p
  case key => exact absurd (by decide) hp
  all_goals simp [SamePart]

theorem State.setSchedule_sameExcept (s : State) (ops : List HostOp) : SameExcept [.schedule] s (s.setSchedule ops) := by
  intro p hp
  cases p
  case schedule => exact absurd (by decide) hp
  all_goals simp [SamePart]

theorem State.beginCycle_sameExcept (s : State) (r : Option Byte) : SameExcept cycleParts s (s.beginCycle r) := by
  intro p hp
  cases p
  case pc | events | loadResult | ran | rnd => exact absurd (by decide) hp
  all_goals simp [SamePart]

/-! ### Fetches (20_memory.md R65, R66) -/

theorem State.readByte_congr (s : State) {a b : Nat} (h : maskAddr a = maskAddr b) : s.readByte a = s.readByte b :=
  congrArg (Memory.lookup s.mem) h

/-- Addresses that agree below bit 12 are followed by addresses that do. -/
theorem State.fetch16_congr_maskAddr (s : State) {a b : Nat} (h : maskAddr a = maskAddr b) :
    s.fetch16 a = s.fetch16 b := by
  have next : maskAddr (a + 1) = maskAddr (b + 1) := by
    unfold maskAddr at h ⊢
    omega
  rw [State.fetch16, s.readByte_congr h, s.readByte_congr next, ← State.fetch16]

theorem State.fetch16_of_readByte (h : ∀ a, t.readByte a = s.readByte a) (a : Nat) : t.fetch16 a = s.fetch16 a := by
  rw [State.fetch16, h, h, ← State.fetch16]

theorem maskAddr_toNat (p : Word) : maskAddr p.toNat = (p &&& 0xFFF#16).toNat := by
  rw [BitVec.toNat_and]
  exact (Nat.and_two_pow_sub_one_eq_mod p.toNat 12).symm

/-- Settles O10: a fetch depends on the masked address, and 0x1000 is masked to 0x000. -/
theorem fetchUsesTwelveAddressBits : Obligations.FetchUsesTwelveAddressBits := by
  refine fun s => ⟨fun p q h => s.fetch16_congr_maskAddr ?low, ?wraps⟩
  case low => rw [maskAddr_toNat, maskAddr_toNat, h]
  case wraps => exact congrArg (wordOfBytes (s.readByte 0xFFF)) (s.readByte_congr rfl)

/-! ### The operations, as the updates they are -/

section
variable (s : State) (x y : Nibble)

theorem exec_sys (nnn : Addr) : exec (.sys nnn) s = .next s := rfl

theorem exec_jpV0 (nnn : Addr) : exec (.jpV0 nnn) s = .next (s.setPc (s.indexedTarget nnn)) := rfl

theorem exec_cls : exec .cls s = .next ((s.setFb Framebuffer.clear).emit .frameDirty) := rfl

theorem exec_rnd (nn : Byte) : exec (.rnd x nn) s = .next (s.draw.2.setV x (s.draw.1 &&& nn)) := rfl

theorem exec_seReg : exec (.seReg x y) s = .next (s.skipIf (aluEq (s.reg x) (s.reg y))) := rfl

theorem exec_sneReg : exec (.sneReg x y) s = .next (s.skipIf (!aluEq (s.reg x) (s.reg y))) := rfl

theorem exec_addI : exec (.addI x) s = .next (s.setI (s.i + zextByte (s.reg x))) := rfl

theorem exec_ldF : exec (.ldF x) s = .next (s.setI (glyphAddr (s.reg x))) := rfl

end

/-- A call with room pushes the advanced `PC` and jumps (40_address_only.md R102). -/
theorem exec_call_of_room (nnn : Addr) (hroom : s.sp.val < 16) :
    exec (.call nnn) s =
      .next { s with stack := s.stack.set s.sp.val s.pc hroom, sp := ⟨s.sp.val + 1, by omega⟩, pc := zextAddr nnn } := by
  rcases s.callTo_cases (zextAddr nnn) with ⟨_, h⟩ | ⟨hfull, -⟩
  · exact congrArg _ h
  · omega

/-- A return with an entry in use pops `PC` (45_zero_operand.md R171). -/
theorem exec_ret_of_used (hused : 0 < s.sp.val) :
    exec .ret s = .next { s with sp := ⟨s.sp.val - 1, by omega⟩, pc := s.stack[s.sp.val - 1]'(by omega) } := by
  rcases s.returnFromCall_cases with ⟨_, h⟩ | ⟨hempty, -⟩
  · exact congrArg _ h
  · omega

/-! ### Calls and returns -/

/-- Settles O14: by what a call with room writes. -/
theorem callPushesReturnAddress : Obligations.CallPushesReturnAddress := by
  intro s nnn hroom
  refine ⟨_, exec_call_of_room nnn hroom, toNat_zextAddr nnn, rfl, fun k hk => ?slots, ?frame⟩
  case slots => simp only [Vector.getElem_set, eq_comm]
  case frame =>
    have frame := (s.setStack_sameExcept (s.stack.set s.sp.val s.pc hroom)).trans
      (State.setPcSp_sameExcept _ (zextAddr nnn) ⟨s.sp.val + 1, by omega⟩)
    exact frame.mono (by decide)

/-- Settles O15: by what a return with an entry in use writes. -/
theorem returnPopsPc : Obligations.ReturnPopsPc :=
  fun s hused => ⟨_, exec_ret_of_used hused, rfl, rfl, s.setPcSp_sameExcept _ _⟩

/-- Settles O16: both raise the halt, which writes the engine state alone. -/
theorem stackErrorsHaltTheEngine : Obligations.StackErrorsHaltTheEngine :=
  ⟨fun s nnn hfull => ⟨_, exec_call_of_full nnn hfull, rfl, s.setEs_sameExcept _⟩,
    fun s hempty => ⟨_, exec_ret_of_empty hempty, rfl, s.setEs_sameExcept _⟩⟩

/-- A step of a running engine with nothing scheduled, on a word that is an operation (60_exceptions.md R185). -/
theorem step_of_op {i : Instr} (hrun : s.es = .running) (hnil : s.schedule = [])
    (hop : decodeWord (s.fetch16 s.pc.toNat) = .op i) : step s = exec i (s.beginCycle none) := by
  rcases freeCycle_cases s with ⟨r, hhalt, -⟩ | ⟨-, hfree⟩
  · simp [hrun] at hhalt
  · rw [step_of_nil hnil, hfree, cycle_of_running none hrun, runCycle_of_op none hop]

/-- Settles O17: by what the call and the return write. The return fetches at `NNN` from the memory before the call, and
pops the slot the call pushed to. -/
theorem callThenReturnComesBack : Obligations.CallThenReturnComesBack := by
  intro s nnn hrun hnil hroom hcall hret
  obtain ⟨t, hexecCall, hpc, hsp, hstack, hframe⟩ := callPushesReturnAddress (s.beginCycle none) nnn hroom
  have kept : SameExcept (.sp :: .stack :: cycleParts) s t :=
    ((s.beginCycle_sameExcept none).trans hframe).mono (by decide)
  have used : 0 < (t.beginCycle none).sp.val := by
    rw [State.beginCycle_sp, hsp]
    exact Nat.succ_pos _
  obtain ⟨u, hexecRet, hpop, hsp', hframe'⟩ := returnPopsPc (t.beginCycle none) used
  have kept' : SameExcept (.sp :: cycleParts) t u :=
    ((t.beginCycle_sameExcept none).trans hframe').mono (by decide)
  have slots : ∀ (k : Nat) (hk : k < 16), u.stack[k] = if k = s.sp.val then s.pc + 2#16 else s.stack[k] := by
    have same : u.stack = t.stack := kept' .stack (by decide)
    exact fun k hk => same ▸ hstack k hk
  have popped : (t.beginCycle none).sp.val - 1 = s.sp.val := by
    rw [State.beginCycle_sp, hsp]
    rfl
  have sameSp : u.sp = s.sp := Fin.ext (hsp'.trans popped)
  have hret' : decodeWord (t.fetch16 t.pc.toNat) = .op .ret := by
    rw [hpc, State.fetch16_of_readByte (kept .mem (by decide)), hret]
  refine ⟨t, u, (step_of_op hrun hnil hcall).trans hexecCall,
    (step_of_op (Eq.trans (kept .es (by decide)) hrun) (Eq.trans (kept .schedule (by decide)) hnil) hret').trans hexecRet,
    ?pc, hframe' .events (by decide), ?frame, slots⟩
  case pc =>
    rw [hpop]
    simp only [popped]
    exact (hstack s.sp.val hroom).trans (if_pos rfl)
  case frame =>
    have both : SameExcept (.sp :: .stack :: cycleParts) s u := (kept.trans kept').mono (by decide)
    exact both.of_cons sameSp

/-! ### Jumps, the no-op and the screen -/

@[simp] theorem toNat_zextByte (b : Byte) : (zextByte b).toNat = b.toNat := BitVec.toNat_setWidth_of_le (by decide)

/-- The sum of 12 bits and 8 bits needs no more than 16 (40_address_only.md R104). -/
theorem State.toNat_indexedTarget (s : State) (nnn : Addr) :
    (s.indexedTarget nnn).toNat = nnn.toNat + (s.reg 0#4).toNat := by
  rw [State.indexedTarget, BitVec.toNat_add, toNat_zextAddr, toNat_zextByte]
  have := nnn.isLt
  have := (s.reg 0#4).isLt
  omega

/-- Settles O19: the jump writes the sum to `PC` alone. -/
theorem indexedJumpAddsV0 : Obligations.IndexedJumpAddsV0 :=
  fun s nnn => ⟨_, exec_jpV0 s nnn, s.toNat_indexedTarget nnn, s.setPc_sameExcept _⟩

/-- Settles O12: the no-op answers the state it is given; a word of leading nibble 0 is one once the two full-word
comparisons fail. -/
theorem sysIsNoOp : Obligations.SysIsNoOp := by
  refine ⟨fun s nnn => ⟨s, exec_sys s nnn, s.sameExcept_nil⟩, fun w hl hcls hret => ?_⟩
  rw [decodeWord_of_lead_0 hl, decodeFamily0, if_neg hcls, if_neg hret, fieldNNN]

/-- Settles O20: the cleared framebuffer is written, then the event. -/
theorem clearScreenClearsEveryPixel : Obligations.ClearScreenClearsEveryPixel :=
  fun s => ⟨_, exec_cls s, Framebuffer.pixel_clear, rfl, (s.setFb_sameExcept _).trans (State.emit_sameExcept _ _)⟩

/-! ### The random byte -/

theorem and_and_not_self (b nn : Byte) : b &&& nn &&& ~~~nn = 0#8 := by
  rw [BitVec.and_assoc, BitVec.and_not_self]
  exact BitVec.and_zero

section
variable {b : Byte} (x : Nibble) (nn : Byte)

theorem exec_rnd_of_some (h : s.rnd = some b) : exec (.rnd x nn) s = .next (s.setV x (b &&& nn)) := by
  rw [exec_rnd, State.draw, h]

theorem exec_rnd_of_none (h : s.rnd = none) :
    exec (.rnd x nn) s = .next (State.setV { s with draws := s.draws + 1 } x (Config.rndByte s.draws &&& nn)) := by
  rw [exec_rnd, State.draw, h]

theorem State.setV_and_reg_masked (s : State) : (s.setV x (b &&& nn)).reg x &&& ~~~nn = 0#8 := by
  rw [State.setV_reg_same, and_and_not_self]

end

/-- Settles O24: by where the byte is drawn from. -/
theorem randomIsMaskedByNN : Obligations.RandomIsMaskedByNN := by
  intro s x nn
  cases hrnd : s.rnd with
  | some b =>
    exact ⟨_, exec_rnd_of_some x nn hrnd, s.setV_and_reg_masked x nn, fun r hr => s.setV_reg_of_ne _ hr,
      s.setV_reg_same _ _, s.setV_sameExcept _ _⟩
  | none =>
    have frame := (s.setDraws_sameExcept (s.draws + 1)).trans
      (State.setV_sameExcept _ x (Config.rndByte s.draws &&& nn))
    exact ⟨_, exec_rnd_of_none x nn hrnd, State.setV_and_reg_masked x nn _, fun r hr => State.setV_reg_of_ne _ _ hr,
      State.setV_reg_same _ _ _, rfl, frame.mono (by decide)⟩

/-! ### Register skips and the subtraction flag -/

/-- Settles O25: leading nibbles 5 and 9 test the trailing nibble, and skip on one comparison and on its negation. -/
theorem registerSkips : Obligations.RegisterSkips :=
  ⟨fun _ hl => decodeWord_of_lead_5 hl, fun _ hl => decodeWord_of_lead_9 hl,
    fun s x y => ⟨_, _, exec_seReg s x y, exec_sneReg s x y, s.toNat_skipIf_aluEq_pc _ _,
      s.toNat_skipIf_not_aluEq_pc _ _, s.skipIf_sameExcept _, s.skipIf_sameExcept _⟩⟩

/-- The complement is 255 less the operand, so the sum reaches 256 exactly when nothing is borrowed. -/
theorem toNat_flagByte_aluSub (a b : Byte) : (flagByte (aluSub a b).2).toNat = (a.toNat + (~~~b).toNat + 1) / 256 := by
  rw [flagByte_aluSub, BitVec.toNat_not]
  have := a.isLt
  have := b.isLt
  split_ifs <;> simp only [BitVec.toNat_ofNat] <;> omega

/-- Settles O31: `SUBN` is `SUB` with its operands exchanged. -/
theorem notBorrowIsCarryOfComplementSum : Obligations.NotBorrowIsCarryOfComplementSum := by
  refine fun s x y => ⟨_, _, exec_sub s x y, exec_subn s x y, ?sub, ?subn⟩
  case sub => rw [State.setResult_reg_flag, toNat_flagByte_aluSub]
  case subn => rw [State.setResult_reg_flag, aluSubn_eq_aluSub, toNat_flagByte_aluSub]

/-! ### The index register -/

/-- Settles O37: the sum of 16 bits is written to `I` alone. -/
theorem addIndexWrapsAtSixteenBits : Obligations.AddIndexWrapsAtSixteenBits := by
  refine fun s x => ⟨_, exec_addI s x, ?_, s.setI_sameExcept _⟩
  rw [State.setI_i, BitVec.toNat_add, toNat_zextByte]

/-- Five times a byte needs no more than 16 bits (44_single_register.md R157). -/
theorem toNat_glyphAddr (b : Byte) : (glyphAddr b).toNat = 5 * b.toNat := by
  rw [glyphAddr, BitVec.toNat_mul, toNat_zextByte, BitVec.toNat_ofNat]
  have := b.isLt
  omega

/-- Settles O38: the product is written to `I` alone. -/
theorem glyphAddressIsFiveTimesVx : Obligations.GlyphAddressIsFiveTimesVx :=
  fun s x => ⟨_, exec_ldF s x, toNat_glyphAddr _, s.setI_sameExcept _⟩

/-! ### A load after a store (44_single_register.md R161) -/

/-- A register loaded in a state with the same `I`, from a byte that is still as stored. -/
theorem State.loadRegs_reg_of_kept {x r : Nibble} (hi : u.i = s.i) (hr : r.toNat ≤ x.toNat)
    (hkept : u.readByte (s.dataAddr r.toNat) = t.readByte (s.dataAddr r.toNat)) :
    (u.loadRegs (u.dataAddr 0) (x.toNat + 1)).reg r = t.readByte (s.dataAddr r.toNat) := by
  rw [State.loadRegs_reg _ _ _ x.isLt, if_pos (Nat.lt_succ_of_le hr), State.dataAddr, hi]
  exact hkept

/-- Settles O42: the load reads back what `DumpStoresRegisters` and `BcdStoresThreeDigits` say was stored. -/
theorem loadRestoresTheDump : Obligations.LoadRestoresTheDump := by
  refine fun s x => ⟨?dump, ?bcd⟩
  case dump =>
    obtain ⟨t, hstore, hstored, -, -⟩ := dumpStoresRegisters.2 s x
    exact ⟨t, hstore, fun u hi hkept => ⟨_, exec_ldVxMem u x, fun r hr =>
      (State.loadRegs_reg_of_kept hi hr (hkept _ hr)).trans (hstored r hr)⟩⟩
  case bcd =>
    obtain ⟨t, hstore, hhundreds, htens, hones, -, -⟩ := bcdStoresThreeDigits.2 s x
    refine ⟨t, hstore, fun u hi hkept => ⟨_, exec_ldVxMem u 2#4, ?_⟩⟩
    have restored (r : Nibble) (hr : r.toNat ≤ 2) := State.loadRegs_reg_of_kept (x := 2#4) hi hr (hkept _ hr)
    exact ⟨(congrArg _ (restored 0#4 (by decide))).trans hhundreds,
      (congrArg _ (restored 1#4 (by decide))).trans htens, (congrArg _ (restored 2#4 (by decide))).trans hones⟩

end Sys2Proof.Machine
end

section
/-! PROOFS across the families, the drawing (43_register_register_nibble.md): which pixels `DXYN` inverts, what its flag
says, and the same sprite drawn twice. -/

namespace Sys2Proof.Machine

variable {s t : State} {x0 y0 : Byte} {n : Nibble} {px : Fin 64} {py : Fin 32}

/-! ### The sprite on the screen -/

/-- The pixels of the drawing loops are those of the statement: the loops number columns and rows as `Fin`s. -/
theorem State.spriteCovers_iff : s.spriteCovers x0 y0 n px py ↔
    ∃ r k, r < n.toNat ∧ k < 8 ∧ px = screenColumn x0 k ∧ py = screenRow y0 r ∧ spriteBit (s.spriteRow r) k = true := by
  simp only [State.spriteCovers, screenColumn, screenRow, Fin.ext_iff, spriteBit, State.spriteRow, State.dataAddr]

/-- The sprite is read from memory at `I`, and nothing else decides where its bits land. -/
theorem State.spriteCovers_congr (hi : t.i = s.i) (hmem : ∀ a, t.readByte a = s.readByte a) :
    t.spriteCovers x0 y0 n px py ↔ s.spriteCovers x0 y0 n px py := by
  simp only [State.spriteCovers, hi, hmem]

section
variable (s : State) (x y n : Nibble)

theorem exec_drw : exec (.drw x y n) s =
    .next (((s.setFb (s.drawSprite x y n).1).setFlag (s.drawSprite x y n).2).emit .frameDirty) := rfl

theorem State.drawSprite_pixel (px : Fin 64) (py : Fin 32) :
    (s.spriteCovers (s.reg x) (s.reg y) n px py →
      Framebuffer.pixel (s.drawSprite x y n).1 px py = !s.pixelAt px py) ∧
    (¬ s.spriteCovers (s.reg x) (s.reg y) n px py →
      Framebuffer.pixel (s.drawSprite x y n).1 px py = s.pixelAt px py) := by
  rw [State.spriteCovers_iff]
  exact (drawRows_spec (s.reg x) (s.reg y) s.spriteRow n.toNat (Nat.le_of_lt_succ n.isLt) (s.fb, false)).1 px py

theorem State.drawSprite_collision : (s.drawSprite x y n).2 = true ↔
    ∃ px py, s.spriteCovers (s.reg x) (s.reg y) n px py ∧ s.pixelAt px py = true := by
  have loops := (drawRows_spec (s.reg x) (s.reg y) s.spriteRow n.toNat (Nat.le_of_lt_succ n.isLt) (s.fb, false)).2
  refine loops.trans ⟨?_, ?_⟩
  · rintro (hfalse | ⟨r, k, hr, hk, hbit, hset⟩)
    · exact absurd hfalse Bool.false_ne_true
    · exact ⟨_, _, State.spriteCovers_iff.2 ⟨r, k, hr, hk, rfl, rfl, hbit⟩, hset⟩
  · rintro ⟨px, py, hcovers, hset⟩
    obtain ⟨r, k, hr, hk, rfl, rfl, hbit⟩ := State.spriteCovers_iff.1 hcovers
    exact .inr ⟨r, k, hr, hk, hbit, hset⟩

end

/-- Settles O32: the pixels and the collision of the drawing loops, written before the flag and the event. -/
theorem drawXorsTheSprite : Obligations.DrawXorsTheSprite := by
  intro s x y n
  refine ⟨_, exec_drw s x y n, s.drawSprite_pixel x y n, fun hhit => ?hit, fun hmiss => ?miss, fun r hr => ?others, rfl,
    ?frame⟩
  case hit => simp [(s.drawSprite_collision x y n).2 hhit, flagByte]
  case miss =>
    have noCollision := Bool.eq_false_iff.2 (mt (s.drawSprite_collision x y n).1 hmiss)
    simp [noCollision, flagByte]
  case others => simp [hr]
  case frame =>
    exact ((s.setFb_sameExcept _).trans (State.setV_sameExcept _ _ _)).trans (State.emit_sameExcept _ _)

/-- Settles O33: the first drawing inverts the covered pixels, so the second, which covers the same ones, restores them and
meets a set pixel where a clear one was. -/
theorem drawingTwiceRestoresTheFramebuffer : Obligations.DrawingTwiceRestoresTheFramebuffer := by
  intro s x y n
  obtain ⟨t, hexec, hpixel, -, -, hothers, -, hframe⟩ := drawXorsTheSprite s x y n
  refine ⟨t, hexec, hothers x, hothers y, fun hx hy => ?_⟩
  obtain ⟨u, hexec', hpixel', hhit, hmiss, -, -, -⟩ := drawXorsTheSprite t x y n
  have sameCovers (px : Fin 64) (py : Fin 32) :
      t.spriteCovers (t.reg x) (t.reg y) n px py ↔ s.spriteCovers (s.reg x) (s.reg y) n px py := by
    rw [hx, hy]
    exact State.spriteCovers_congr (hframe .i (by decide)) (hframe .mem (by decide))
  have sameCollision : (∃ px py, t.spriteCovers (t.reg x) (t.reg y) n px py ∧ t.pixelAt px py = true) ↔
      ∃ px py, s.spriteCovers (s.reg x) (s.reg y) n px py ∧ s.pixelAt px py = false := by
    refine exists_congr fun px => exists_congr fun py => ?_
    rw [sameCovers]
    exact and_congr_right fun hcovers => by rw [(hpixel px py).1 hcovers, Bool.not_eq_true']
  rw [sameCollision] at hhit hmiss
  refine ⟨u, hexec', fun px py => ?pixels, ⟨fun hset => ?hitOfSet, hhit⟩, ⟨fun hclear hex => ?missOfClear, hmiss⟩⟩
  case pixels =>
    by_cases hcovers : s.spriteCovers (s.reg x) (s.reg y) n px py
    · rw [(hpixel' px py).1 ((sameCovers px py).2 hcovers), (hpixel px py).1 hcovers, Bool.not_not]
    · rw [(hpixel' px py).2 (mt (sameCovers px py).1 hcovers), (hpixel px py).2 hcovers]
  case hitOfSet =>
    by_contra hnone
    exact absurd (hset.symm.trans (hmiss hnone)) (by decide)
  case missOfClear => exact absurd (hclear.symm.trans (hhit hex)) (by decide)

end Sys2Proof.Machine
end

section
/-! PROOFS across the families, the operations of the host one at a time (60_exceptions.md, 70_reset_and_hazards.md): the
step and the `Cycle`, the keys, the timers, `Stop`, `Reset` and `LoadProgram`. -/

namespace Sys2Proof.Machine

variable {s t : State} {r : Option Byte} {i : Instr}

/-! ### The step and the `Cycle` -/

/-- What a `Cycle` does where it answers a next state (60_exceptions.md R185 to R188). -/
theorem cycle_cases (h : cycle r s = .next t) :
    (s.es = .running ∧ ∃ i, decodeWord (s.fetch16 s.pc.toNat) = .op i ∧ exec i (s.beginCycle r) = .next t) ∨
    (s.es = .running ∧ decodeWord (s.fetch16 s.pc.toNat) = .unknown ∧
      t = (s.beginCycle r).reportUnknown s.pc (s.fetch16 s.pc.toNat)) ∨
    (s.es ≠ .running ∧ t = s.clearOutputs) := by
  cases hes : s.es with
  | running =>
    rw [cycle_of_running r hes] at h
    cases hop : decodeWord (s.fetch16 s.pc.toNat) with
    | op i => exact .inl ⟨rfl, i, rfl, (runCycle_of_op r hop).symm.trans h⟩
    | unknown => exact .inr (.inl ⟨rfl, rfl, (Host.Outcome.next.inj ((runCycle_of_unknown r hop).symm.trans h)).symm⟩)
  | awaitingKey x =>
    exact .inr (.inr ⟨by simp, (Host.Outcome.next.inj ((cycle_of_awaitingKey r hes).symm.trans h)).symm⟩)
  | halted reason =>
    exact .inr (.inr ⟨by simp, (Host.Outcome.next.inj ((cycle_of_halted r hes).symm.trans h)).symm⟩)

/-- A `Cycle` in `Running`, said of the state it begins from. -/
theorem cycle_executes (r : Option Byte) (hrun : s.es = .running) :
    (∀ i, decodeWord (s.fetch16 s.pc.toNat) = .op i → cycle r s = exec i (s.beginCycle r)) ∧
    (decodeWord (s.fetch16 s.pc.toNat) = .unknown →
      ∃ t, cycle r s = .next t ∧ t.events = [.unknownOpcode s.pc (s.fetch16 s.pc.toNat)] ∧
        SameExcept [.events] (s.beginCycle r) t) := by
  rw [cycle_of_running r hrun]
  exact ⟨fun i hop => runCycle_of_op r hop,
    fun hunknown => ⟨_, runCycle_of_unknown r hunknown, rfl, State.emit_sameExcept _ _⟩⟩

theorem freeCycle_of_halted {reason : HaltReason} (h : s.es = .halted reason) :
    freeCycle s = .fault (.halted reason) := by
  simp [freeCycle, h]

theorem freeCycle_of_not_halted (h : ∀ reason, s.es ≠ .halted reason) : freeCycle s = cycle none s := by
  rcases freeCycle_cases s with ⟨reason, hhalt, -⟩ | ⟨-, hfree⟩
  · exact absurd hhalt (h reason)
  · exact hfree

/-- Settles O8: the oldest operation of the schedule, else a `Cycle`; a `Cycle` in `Running` begins from `beginCycle`. -/
theorem stepRunsTheDecodedInstruction : Obligations.StepRunsTheDecodedInstruction := by
  refine fun s => ⟨fun op rest => step_of_cons, fun hrun hnil => ?free, fun b rest hrun hcons => ?scheduled⟩
  case free =>
    have hstep : step s = cycle none s := (step_of_nil hnil).trans (freeCycle_of_not_halted (by simp [hrun]))
    rw [hstep]
    exact ⟨s.beginCycle none, rfl, rfl, rfl, rfl, rfl, s.beginCycle_sameExcept none, cycle_executes none hrun⟩
  case scheduled =>
    have hstep : step s = cycle (some b) (s.setSchedule rest) := step_of_cons hcons
    rw [hstep]
    exact ⟨(s.setSchedule rest).beginCycle (some b), rfl, rfl, rfl, rfl, rfl, rfl,
      (s.setSchedule_sameExcept rest).trans (State.beginCycle_sameExcept _ _),
      cycle_executes (s := s.setSchedule rest) (some b) hrun⟩

/-- Settles O44: only a halted engine has no `Cycle` of its own, and outside `Running` a `Cycle` clears the outputs. -/
theorem haltedEngineIsStuck : Obligations.HaltedEngineIsStuck := by
  refine ⟨fun s reason hhalt => ⟨fun hnil => ?stuck, fun b => ?invoked⟩, fun s x hwait hnil => ?waiting⟩
  case stuck => exact (step_of_nil hnil).trans (freeCycle_of_halted hhalt)
  case invoked => exact ⟨_, cycle_of_halted (some b) hhalt, rfl, s.clearOutputs_sameExcept⟩
  case waiting =>
    have hstep : step s = cycle none s := (step_of_nil hnil).trans (freeCycle_of_not_halted (by simp [hwait]))
    exact ⟨_, hstep.trans (cycle_of_awaitingKey none hwait), rfl, s.clearOutputs_sameExcept⟩

/-- Settles O45: the report is the whole of what follows the start of the `Cycle`. -/
theorem unknownWordIsReportedAndSkipped : Obligations.UnknownWordIsReportedAndSkipped := by
  intro s b hrun hunknown
  obtain ⟨t, hcycle, hevents, hframe⟩ := (cycle_executes (some b) hrun).2 hunknown
  refine ⟨t, hcycle, Eq.trans (hframe .es (by decide)) hrun, ?pc, hevents,
    ((s.beginCycle_sameExcept (some b)).trans hframe).mono (by decide)⟩
  case pc =>
    have advanced : t.pc = s.pc + 2#16 := hframe .pc (by decide)
    rw [advanced, BitVec.toNat_add]
    rfl

/-! ### The timers (60_exceptions.md R197) -/

theorem toNat_decTimer (b : Byte) : (decTimer b).toNat = b.toNat - 1 := by
  unfold decTimer
  split_ifs with hpos
  · exact BitVec.toNat_sub_of_le (BitVec.le_def.2 hpos)
  · omega

theorem State.timerTick_dt (s : State) : s.timerTick.dt = decTimer s.dt := rfl

theorem State.timerTick_st (s : State) : s.timerTick.st = decTimer s.st := rfl

/-- A value less one, `n` times, is the value less `n` where each is floored at 0. -/
theorem State.iterate_timerTick (s : State) (n : Nat) :
    (State.timerTick^[n] s).dt.toNat = s.dt.toNat - n ∧ (State.timerTick^[n] s).st.toNat = s.st.toNat - n := by
  induction n with
  | zero => exact ⟨rfl, rfl⟩
  | succ n ih =>
    obtain ⟨hdt, hst⟩ := ih
    rw [Function.iterate_succ_apply', State.timerTick_dt, State.timerTick_st, toNat_decTimer, toNat_decTimer, hdt, hst]
    exact ⟨Nat.sub_sub _ _ _, Nat.sub_sub _ _ _⟩

/-- Settles O46: one tick writes the two timers, and ticks compose by induction. -/
theorem timerTickCountsDownToZero : Obligations.TimerTickCountsDownToZero := by
  refine ⟨fun s => ⟨_, rfl, toNat_decTimer _, toNat_decTimer _, rfl, ?_⟩, State.iterate_timerTick⟩
  have frame := (s.clearOutputs_sameExcept.trans (State.setDt_sameExcept _ (decTimer s.dt))).trans
    (State.setSt_sameExcept _ (decTimer s.st))
  exact frame.mono (by decide)

/-! ### The keys (60_exceptions.md R199, R200) -/

theorem State.keyDown_of_waiting {x : Nibble} (k : Nibble) (h : s.es = .awaitingKey x) :
    s.keyDown k = ((s.setKey k true).setV x (zextKey k)).setEs .running := by
  simp [State.keyDown, h]

theorem State.keyDown_of_not_waiting (k : Nibble) (h : ∀ x, s.es ≠ .awaitingKey x) :
    s.keyDown k = s.setKey k true := by
  rcases s.keyDown_cases k with ⟨x, hwait, -⟩ | ⟨-, hkey⟩
  · exact absurd hwait (h x)
  · exact hkey

/-- The frame of an operation that clears the outputs and writes one key. -/
theorem State.clearOutputs_setKey_sameExcept (s : State) (k : Nibble) (b : Bool) :
    SameExcept (.key :: outputParts) s (s.clearOutputs.setKey k b) :=
  (s.clearOutputs_sameExcept.trans (State.setKey_sameExcept _ k b)).mono (by decide)

/-- Settles O47: with no wait to complete, both operations write the key alone. -/
theorem keyOperationsWriteTheKey : Obligations.KeyOperationsWriteTheKey := by
  refine fun s k hwait => ⟨?down, ?up⟩
  case down =>
    have hdown : s.clearOutputs.keyDown k = s.clearOutputs.setKey k true := State.keyDown_of_not_waiting k hwait
    exact ⟨_, congrArg Host.Outcome.next hdown, fun q => State.setKey_keyAt _ k q true,
      s.clearOutputs_setKey_sameExcept k true⟩
  case up => exact ⟨_, rfl, fun q => State.setKey_keyAt _ k q false, s.clearOutputs_setKey_sameExcept k false⟩

theorem toNat_zextKey (k : Nibble) : (zextKey k).toNat = k.toNat := BitVec.toNat_setWidth_of_le (by decide)

theorem exec_ldVxK (s : State) (x : Nibble) : exec (.ldVxK x) s = .next (s.setEs (.awaitingKey x)) := rfl

/-- Settles O36: the wait is the engine state alone; the press completes it, and the release does not test for it. -/
theorem keyWaitEndsWithTheNextPress : Obligations.KeyWaitEndsWithTheNextPress := by
  refine fun s x k => ⟨_, exec_ldVxK s x, rfl, s.setEs_sameExcept _, ?press, ?release⟩
  case press =>
    have hdown := State.keyDown_of_waiting (s := (s.setEs (.awaitingKey x)).clearOutputs) k rfl
    refine ⟨_, congrArg Host.Outcome.next hdown, rfl, ?register, ?key, fun r hr => ?registers, fun q hq => ?keys, ?frame⟩
    case register => simp [toNat_zextKey]
    case key => simp
    case registers => simp [hr]
    case keys => simp [hq]
    case frame =>
      have frame := ((State.clearOutputs_setKey_sameExcept (s.setEs (.awaitingKey x)) k true).trans
        (State.setV_sameExcept _ x (zextKey k))).trans (State.setEs_sameExcept _ .running)
      exact frame.mono (by decide)
  case release =>
    refine ⟨_, rfl, rfl, ?key, fun q hq => ?keys, State.clearOutputs_setKey_sameExcept _ k false⟩
    case key => simp [State.keyUp]
    case keys => simp [State.keyUp, hq]

/-! ### `Stop` (60_exceptions.md R193) -/

/-- Settles O48: a halted engine is left as it is, any other is halted. -/
theorem stopHaltsOnce : Obligations.StopHaltsOnce := by
  refine fun s => ⟨_, rfl, ?_⟩
  rcases s.clearOutputs.stop_cases with ⟨reason, hhalt, hstop⟩ | ⟨hlive, hstop⟩
  · have hes : s.es = .halted reason := hhalt
    rw [hstop, hes]
    exact ⟨s.clearOutputs_sameExcept.mono (by decide), hes⟩
  · rw [hstop]
    refine ⟨(s.clearOutputs_sameExcept.trans (State.setEs_sameExcept _ _)).mono (by decide), ?_⟩
    cases hes : s.es with
    | halted reason => exact absurd hes (hlive reason)
    | running | awaitingKey => rfl

/-! ### `Reset` (70_reset_and_hazards.md R210) -/

/-- Writing the bytes an empty list of cells reads as lists no cell. -/
theorem Memory.writeBytes_resetByte (bs : List Byte) (base : Nat) (hfit : base + bs.length ≤ 4096)
    (h : ∀ (j : Nat) (hj : j < bs.length), bs[j] = resetByte (base + j)) : Memory.writeBytes [] base bs = [] := by
  induction bs generalizing base with
  | nil => rfl
  | cons b bs ih =>
    rw [List.length_cons] at hfit
    have first : b = resetByte base := h 0 (Nat.succ_pos _)
    have noCell : Memory.write [] base b = [] := by
      rw [Memory.write, maskAddr_of_lt (by omega), if_pos first, Memory.drop]
    rw [Memory.writeBytes, noCell]
    refine ih (base + 1) (by omega) fun j hj => ?_
    rw [Nat.add_assoc, Nat.add_comm 1 j]
    exact h (j + 1) (Nat.succ_lt_succ hj)

theorem resetByte_of_lt {a : Nat} (h : a < 80) : resetByte a = font[a] := dif_pos h

/-- The default font is what memory reads as after `Reset`, so that writing it lists no cell. -/
theorem State.resetWith_font (s : State) :
    s.resetWith font = { State.reset with schedule := s.schedule, draws := s.draws } := by
  have noCell : Memory.writeBytes State.reset.mem 0 font.toList = State.reset.mem := by
    refine Memory.writeBytes_resetByte font.toList 0 (by simp) fun j hj => ?_
    have hj' : j < 80 := by simpa using hj
    rw [Nat.zero_add, resetByte_of_lt hj', Vector.getElem_toList]
  rw [State.resetWith, noCell]

section
variable (s : State) (f : Vector Byte 80)

theorem State.resetWith_reg (x : Nibble) : (s.resetWith f).reg x = 0#8 := Vector.getElem_replicate _

theorem State.resetWith_stack (k : Nat) (hk : k < 16) : (s.resetWith f).stack[k] = 0#16 := Vector.getElem_replicate _

theorem State.resetWith_keyAt (k : Nibble) : (s.resetWith f).keyAt k = false := Vector.getElem_replicate _

theorem State.resetWith_pixelAt (x : Fin 64) (y : Fin 32) : (s.resetWith f).pixelAt x y = false :=
  Framebuffer.pixel_clear x y

end

/-- Settles O50: every field is that of `State.reset` but for memory, the schedule and the count of draws. -/
theorem resetSetsEveryRegister : Obligations.ResetSetsEveryRegister := fun s f =>
  ⟨s.resetWith f, rfl, s.resetWith_reg f, rfl, rfl, s.resetWith_stack f, rfl, rfl, rfl, s.resetWith_pixelAt f,
    s.resetWith_keyAt f, rfl, rfl, congrArg Host.Outcome.next s.resetWith_font⟩

/-! ### `LoadProgram` (70_reset_and_hazards.md R213, R214) -/

theorem State.setLoadResult_sameExcept (s : State) (a : Option LoadResult) :
    SameExcept [.loadResult] s { s with loadResult := a } := by
  intro p hp
  cases p
  case loadResult => exact absurd (by decide) hp
  case mem | v | key => exact fun _ => rfl
  case fb => exact fun _ _ => rfl
  all_goals rfl

theorem operate_loadProgram_of_ran (bytes : List Byte) (h : s.ran = true) :
    operate (.loadProgram bytes) s = .refused .loadProgramAfterCycle :=
  if_pos h

theorem operate_loadProgram_of_fresh (bytes : List Byte) (h : s.ran = false) :
    operate (.loadProgram bytes) s = .next (s.clearOutputs.copyProgram bytes) :=
  if_neg (Bool.eq_false_iff.1 h)

theorem State.copyProgram_of_large {bytes : List Byte} (s : State) (h : bytes.length > 3584) :
    s.copyProgram bytes = { s with loadResult := some .romTooLarge } :=
  if_pos h

theorem State.copyProgram_of_fits {bytes : List Byte} (s : State) (h : bytes.length ≤ 3584) :
    s.copyProgram bytes =
      { (s.setMem (Memory.writeBytes s.mem programBase bytes)) with loadResult := some .ok } :=
  if_neg (Nat.not_lt.2 h)

/-- Settles O51: the image is rejected before anything is written, or is one block written from 0x200. -/
theorem loadProgramCopiesTheImage : Obligations.LoadProgramCopiesTheImage := by
  intro s bytes hfresh
  have hload := operate_loadProgram_of_fresh bytes hfresh
  refine ⟨fun hlarge => ?large, fun hfits => ?fits⟩
  case large =>
    rw [State.copyProgram_of_large _ hlarge] at hload
    have frame := s.clearOutputs_sameExcept.trans (State.setLoadResult_sameExcept _ (some .romTooLarge))
    exact ⟨_, hload, rfl, rfl, frame.mono (by decide)⟩
  case fits =>
    rw [State.copyProgram_of_fits _ hfits] at hload
    have block (a : Nat) (ha : a < 4096) := Memory.read_writeBytes bytes s.mem 0x200 a (by omega) ha
    refine ⟨_, hload, rfl, rfl, fun j hj => (block _ (by omega)).trans ?image,
      fun a ha hout => (block a ha).trans ?others, ?frame⟩
    case image => rw [dif_pos ⟨by omega, by omega⟩]; simp
    case others => rw [dif_neg (by omega), State.readByte]
    case frame =>
      have frame := (s.clearOutputs_sameExcept.trans
        (State.setMem_sameExcept _ (Memory.writeBytes s.mem programBase bytes))).trans
        (State.setLoadResult_sameExcept _ (some .ok))
      exact frame.mono (by decide)

theorem exec_ran (h : exec i s = .next t) : t.ran = s.ran := by
  obtain ⟨t', hexec, hran, -⟩ := exec_next i s
  exact Host.Outcome.next.inj (h.symm.trans hexec) ▸ hran

theorem cycle_ran (hran : s.ran = true ∨ s.es = .running) (h : cycle r s = .next t) : t.ran = true := by
  rcases cycle_cases h with ⟨-, i, -, hexec⟩ | ⟨-, -, rfl⟩ | ⟨hstill, rfl⟩
  · exact exec_ran hexec
  · rfl
  · exact hran.resolve_right hstill

/-- A `Cycle` answers a next state whatever it executes. -/
theorem cycle_next (r : Option Byte) (s : State) : ∃ t, cycle r s = .next t := by
  cases hes : s.es with
  | running =>
    rw [cycle_of_running r hes]
    cases hop : decodeWord (s.fetch16 s.pc.toNat) with
    | op i =>
      obtain ⟨t, hexec, -⟩ := exec_next i (s.beginCycle r)
      exact ⟨t, (runCycle_of_op r hop).trans hexec⟩
    | unknown => exact ⟨_, runCycle_of_unknown r hop⟩
  | awaitingKey x => exact ⟨_, cycle_of_awaitingKey r hes⟩
  | halted reason => exact ⟨_, cycle_of_halted r hes⟩

/-- The record that a `Cycle` has run stays in every operation but `Reset` (70_reset_and_hazards.md R214). -/
theorem operate_ran {op : HostOp} (hran : s.ran = true) (h : operate op s = .next t) :
    t.ran = true ∨ ∃ f, op = .reset f := by
  cases op with
  | cycle b => exact .inl (cycle_ran (.inl hran) h)
  | timerTick | keyUp =>
    cases h
    exact .inl hran
  | keyDown k =>
    cases h
    rcases s.clearOutputs.keyDown_cases k with ⟨x, -, hdown⟩ | ⟨-, hdown⟩ <;> exact .inl (by rw [hdown]; exact hran)
  | stop =>
    cases h
    rcases s.clearOutputs.stop_cases with ⟨reason, -, hstop⟩ | ⟨-, hstop⟩ <;> exact .inl (by rw [hstop]; exact hran)
  | reset f => exact .inr ⟨f, rfl⟩
  | loadProgram bytes =>
    rw [operate_loadProgram_of_ran bytes hran] at h
    cases h

/-- Settles O52: by the refusal, the record a running `Cycle` makes, and that only `Reset` takes it back. -/
theorem loadProgramIsRefusedAfterACycle : Obligations.LoadProgramIsRefusedAfterACycle := by
  refine ⟨fun s bytes => operate_loadProgram_of_ran bytes, fun s b hrun => ?recorded, fun s t op => operate_ran⟩
  case recorded =>
    obtain ⟨t, hcycle⟩ := cycle_next (some b) s
    exact ⟨t, hcycle, cycle_ran (.inr hrun) hcycle⟩

end Sys2Proof.Machine
end

section
/-! PROOFS across the families, the whole machine: the invariant, the engine state, the writers of each piece of state and
of the flag, the events, and the random byte. -/

namespace Sys2Proof.Machine

variable {s t : State} {r : Option Byte} {i : Instr}

/-! ### The invariant

Once a `Cycle` has run, the clauses on memory and the outputs are all that is left of it; before, every update a host
operation makes keeps it. -/

/-- The invariant of a state a `Cycle` has led to. -/
theorem State.Inv.of_ran (hran : s.ran = true) (hmem : Memory.wf s.mem = true) (hload : s.loadResult = none)
    (hevents : s.events = [] ∨ ∃ e, s.events = [e] ∧ s.es = .running) : s.Inv where
  memory := hmem
  oneEvent := by
    rcases hevents with h | ⟨e, h, -⟩ <;> simp [h]
  eventsRunning := by
    intro hne
    rcases hevents with h | ⟨e, -, hrun⟩
    · exact absurd h hne
    · exact ⟨hrun, hran⟩
  loadFresh := fun hne => absurd hload hne
  stoppedRan := fun _ => hran
  fresh := fun hfresh => absurd (hran.symm.trans hfresh) (by decide)

theorem State.Inv.setSchedule (h : s.Inv) (ops : List HostOp) : (s.setSchedule ops).Inv := { h with }

theorem State.Inv.clearOutputs (h : s.Inv) : s.clearOutputs.Inv :=
  { h with
    oneEvent := Nat.zero_le 1
    eventsRunning := fun hne => absurd rfl hne
    loadFresh := fun hne => absurd rfl hne }

theorem State.Inv.setKey (h : s.Inv) (k : Nibble) (b : Bool) : (s.setKey k b).Inv := { h with }

/-- Timers that stand at 0 stay there. -/
theorem State.Inv.timerTick (h : s.Inv) : s.timerTick.Inv :=
  { h with
    fresh := fun hfresh => by
      obtain ⟨hpc, hi, hsp, hdt, hst, hrest⟩ := h.fresh hfresh
      exact ⟨hpc, hi, hsp, congrArg decTimer hdt, congrArg decTimer hst, hrest⟩ }

/-- A wait is entered by a `Cycle`, so a press that completes one has `ran` recorded. -/
theorem State.Inv.keyDown (h : s.Inv) (hnone : s.events = []) (hload : s.loadResult = none) (k : Nibble) :
    (s.keyDown k).Inv := by
  rcases s.keyDown_cases k with ⟨x, hwait, hdown⟩ | ⟨-, hdown⟩
  · rw [hdown]
    exact State.Inv.of_ran (h.stoppedRan (.inl ⟨x, hwait⟩)) h.memory hload (.inl hnone)
  · rw [hdown]
    exact h.setKey k true

theorem State.not_stopped (h : s.es = .running ∨ s.es = .halted .externalStop) : ¬ (s.Waiting ∨ s.Crashed) := by
  rcases h with h | h <;> simp [State.Waiting, State.Crashed, h]

/-- `Stop` is neither a wait nor a stack error. -/
theorem State.Inv.stop (h : s.Inv) (hnone : s.events = []) : s.stop.Inv := by
  rcases s.stop_cases with ⟨reason, -, hstop⟩ | ⟨-, hstop⟩
  · rwa [hstop]
  · rw [hstop]
    exact
      { h with
        eventsRunning := fun hne => absurd hnone hne
        stoppedRan := fun hstopped => absurd hstopped (State.not_stopped (.inr rfl)) }

theorem State.Inv.resetWith (s : State) (f : Vector Byte 80) : (s.resetWith f).Inv where
  memory := Memory.writeBytes_wf f.toList 0 reset_mem_wf
  oneEvent := Nat.zero_le 1
  eventsRunning := fun hne => absurd rfl hne
  loadFresh := fun hne => absurd rfl hne
  stoppedRan := fun hstopped => absurd hstopped (State.not_stopped (.inl rfl))
  fresh := fun _ => ⟨rfl, rfl, rfl, rfl, rfl, s.resetWith_stack f, s.resetWith_reg f, s.resetWith_pixelAt f⟩

theorem State.Inv.copyProgram (h : s.Inv) (hfresh : s.ran = false) (bytes : List Byte) : (s.copyProgram bytes).Inv := by
  by_cases hfits : bytes.length ≤ 3584
  · rw [s.copyProgram_of_fits hfits]
    exact { h with memory := Memory.writeBytes_wf bytes _ h.memory, loadFresh := fun _ => hfresh }
  · rw [s.copyProgram_of_large (Nat.lt_of_not_le hfits)]
    exact { h with loadFresh := fun _ => hfresh }

/-- The execute phase after the start of a `Cycle`. -/
theorem State.Inv.of_exec (h : s.Inv) (hrun : s.es = .running) (hexec : exec i (s.beginCycle r) = .next t) : t.Inv := by
  obtain ⟨t', hexec', hran, hload, -, -, hwf, hevents, -⟩ := exec_next i (s.beginCycle r)
  obtain rfl : t' = t := Host.Outcome.next.inj (hexec'.symm.trans hexec)
  refine State.Inv.of_ran hran (hwf h.memory) hload ?_
  rcases hevents with hnone | ⟨hone, hes⟩
  · exact .inl hnone
  · exact .inr ⟨_, hone, hes.trans hrun⟩

theorem State.Inv.cycle (h : s.Inv) (hcycle : cycle r s = .next t) : t.Inv := by
  rcases cycle_cases hcycle with ⟨hrun, i, -, hexec⟩ | ⟨hrun, -, rfl⟩ | ⟨-, rfl⟩
  · exact h.of_exec hrun hexec
  · exact State.Inv.of_ran rfl h.memory rfl (.inr ⟨_, rfl, hrun⟩)
  · exact h.clearOutputs

theorem State.Inv.operate (h : s.Inv) {op : HostOp} (hop : operate op s = .next t) : t.Inv := by
  cases op with
  | cycle b => exact h.cycle hop
  | timerTick =>
    cases hop
    exact h.clearOutputs.timerTick
  | keyDown k =>
    cases hop
    exact h.clearOutputs.keyDown rfl rfl k
  | keyUp k =>
    cases hop
    exact h.clearOutputs.setKey k false
  | stop =>
    cases hop
    exact h.clearOutputs.stop rfl
  | reset f =>
    cases hop
    exact State.Inv.resetWith s f
  | loadProgram bytes =>
    cases hran : s.ran with
    | true => cases (operate_loadProgram_of_ran bytes hran).symm.trans hop
    | false =>
      cases (operate_loadProgram_of_fresh bytes hran).symm.trans hop
      exact h.clearOutputs.copyProgram hran bytes

/-- With nothing scheduled, a step that answers a next state is a `Cycle` of an engine that is not halted. -/
theorem step_of_nil_cases (hnil : s.schedule = []) (hstep : step s = .next t) :
    (∀ reason, s.es ≠ .halted reason) ∧ cycle none s = .next t := by
  rw [step_of_nil hnil] at hstep
  rcases freeCycle_cases s with ⟨reason, -, hfault⟩ | ⟨hlive, hfree⟩
  · cases hfault.symm.trans hstep
  · exact ⟨hlive, hfree.symm.trans hstep⟩

/-- Settles O54: by the operation the step performs. -/
theorem everyStepKeepsTheInvariant : Obligations.EveryStepKeepsTheInvariant := by
  intro s t hinv hstep
  cases hsched : s.schedule with
  | nil => exact hinv.cycle (step_of_nil_cases hsched hstep).2
  | cons op rest => exact (hinv.setSchedule rest).operate ((step_of_cons hsched).symm.trans hstep)

/-- Settles O53: the reset state is the one `Reset` with the default font leads to from it. -/
theorem resetHasTheInvariant : Obligations.ResetHasTheInvariant := by
  have hreset := State.Inv.resetWith State.reset font
  rwa [State.resetWith_font] at hreset

/-! ### The engine state (60_exceptions.md R184) -/

/-- The table's rows for a `Cycle` in `Running` are where the execute phase moves `ES`. -/
theorem exec_es (hrun : s.es = .running) (hop : decodeWord (s.fetch16 s.pc.toNat) = .op i)
    (hexec : exec i (s.beginCycle r) = .next t) : t.es = s.esAfterCycle := by
  obtain ⟨t', hexec', -, -, -, -, -, -, hes⟩ := exec_next i (s.beginCycle r)
  obtain rfl : t' = t := Host.Outcome.next.inj (hexec'.symm.trans hexec)
  rw [hes, State.esAfterCycle, hrun, hop]
  cases i
  all_goals simp only [State.beginCycle_sp, State.beginCycle_es, hrun]

theorem State.esAfterCycle_of_unknown (hrun : s.es = .running) (h : decodeWord (s.fetch16 s.pc.toNat) = .unknown) :
    s.esAfterCycle = .running := by
  rw [State.esAfterCycle, hrun, h]

theorem State.esAfterCycle_of_not_running (h : s.es ≠ .running) : s.esAfterCycle = s.es := by
  cases hes : s.es with
  | running => exact absurd hes h
  | awaitingKey | halted => rw [State.esAfterCycle, hes]

theorem cycle_es (h : cycle r s = .next t) : t.es = s.esAfterCycle := by
  rcases cycle_cases h with ⟨hrun, i, hop, hexec⟩ | ⟨hrun, hunknown, rfl⟩ | ⟨hstill, rfl⟩
  · exact exec_es hrun hop hexec
  · exact hrun.trans (State.esAfterCycle_of_unknown hrun hunknown).symm
  · exact (State.esAfterCycle_of_not_running hstill).symm

theorem State.keyDown_es (s : State) (k : Nibble) : (s.keyDown k).es = s.esAfter (.keyDown k) := by
  cases hes : s.es <;> simp [State.keyDown, State.esAfter, hes]

theorem State.stop_es (s : State) : s.stop.es = s.esAfter .stop := by
  cases hes : s.es <;> simp [State.stop, State.esAfter, hes]

theorem State.copyProgram_es (s : State) (bytes : List Byte) : (s.copyProgram bytes).es = s.es := by
  unfold State.copyProgram
  split_ifs <;> rfl

theorem operate_es {op : HostOp} (h : operate op s = .next t) : t.es = s.esAfter op := by
  cases op with
  | cycle b => exact cycle_es h
  | timerTick | keyUp | reset =>
    cases h
    rfl
  | keyDown k =>
    cases h
    exact s.clearOutputs.keyDown_es k
  | stop =>
    cases h
    exact s.clearOutputs.stop_es
  | loadProgram bytes =>
    cases hran : s.ran with
    | true => cases (operate_loadProgram_of_ran bytes hran).symm.trans h
    | false =>
      cases (operate_loadProgram_of_fresh bytes hran).symm.trans h
      exact s.clearOutputs.copyProgram_es bytes

/-- Settles O56: by the operation, and the `Cycle` by the instruction it executes. -/
theorem engineStateMovesAsTheTableSays : Obligations.EngineStateMovesAsTheTableSays := by
  refine fun s t => ⟨fun op => operate_es, fun hnil hstep => ?_⟩
  obtain ⟨hlive, hcycle⟩ := step_of_nil_cases hnil hstep
  exact ⟨hlive, cycle_es hcycle⟩

/-! ### What each instruction writes (10_state.md R41 to R47, R32, R35)

Most operations are one or two of the updates of Laws/State.lean, whose frames `simp` knows; a call, a return, a draw of
the random byte and a load of registers are taken by their cases. -/

/-- Settles O57: by the instruction. -/
theorem onlyTheNamedInstructionsWriteEachRegister : Obligations.OnlyTheNamedInstructionsWriteEachRegister := by
  intro i s
  cases i <;> refine ⟨_, rfl, ?_⟩
  case call nnn => rcases s.callTo_cases (zextAddr nnn) with ⟨_, h⟩ | ⟨_, h⟩ <;> simp [h]
  case ret => rcases s.returnFromCall_cases with ⟨_, h⟩ | ⟨_, h⟩ <;> simp [h]
  case rnd x nn => rcases s.draw_cases with ⟨b, _, h⟩ | ⟨_, h⟩ <;> simp [h]
  case ldVxMem x =>
    obtain ⟨v, h⟩ := s.loadRegs_eq (s.dataAddr 0) (x.toNat + 1)
    simp [h]
  all_goals simp

theorem flagByte_eq (f : Bool) : flagByte f = 0#8 ∨ flagByte f = 1#8 := by
  cases f
  · exact .inl rfl
  · exact .inr rfl

/-- A register write that changes `V[15]` is a write to it. -/
theorem State.eq_flag_of_setV_reg_ne {x : Nibble} {b : Byte} (h : (s.setV x b).reg 15#4 ≠ s.reg 15#4) : x = 15#4 := by
  by_contra hx
  exact h (s.setV_reg_of_ne b (Ne.symm hx))

/-- A load that changes `V[15]` loads all sixteen registers. -/
theorem State.eq_flag_of_loadRegs_reg_ne {x : Nibble}
    (h : (s.loadRegs (s.dataAddr 0) (x.toNat + 1)).reg 15#4 ≠ s.reg 15#4) : x = 15#4 := by
  have reached : (15#4).toNat < x.toNat + 1 := by
    by_contra hx
    exact h ((s.loadRegs_reg _ _ x.isLt _).trans (if_neg hx))
  have := x.isLt
  exact BitVec.eq_of_toNat_eq (by simp only [BitVec.toNat_ofNat] at reached ⊢; omega)

theorem State.draw_reg (s : State) (x : Nibble) : s.draw.2.reg x = s.reg x := by
  rcases s.draw_cases with ⟨b, -, h⟩ | ⟨-, h⟩
  · rw [h]
  · rw [h]
    rfl

/-- Settles O58: by the instruction, which writes a flag last, or writes registers it names, or writes none. -/
theorem onlySixInstructionsWriteTheFlag : Obligations.OnlySixInstructionsWriteTheFlag := by
  intro i s
  cases i <;> refine ⟨_, rfl, ?_⟩
  case addReg | sub | shr | subn | shl | drw => simp [flagByte_eq]
  case ldImm | addImm | ldReg | orReg | andReg | xorReg | ldVxDt =>
    refine ⟨by simp, fun hne => ?_⟩
    obtain rfl := State.eq_flag_of_setV_reg_ne hne
    simp
  case rnd x nn =>
    refine ⟨by simp, fun hne => ?_⟩
    obtain rfl := State.eq_flag_of_setV_reg_ne (s.draw_reg 15#4 ▸ hne)
    simp
  case ldVxMem x =>
    refine ⟨by simp, fun hne => ?_⟩
    obtain rfl := State.eq_flag_of_loadRegs_reg_ne hne
    simp
  case call nnn => rcases s.callTo_cases (zextAddr nnn) with ⟨_, h⟩ | ⟨_, h⟩ <;> simp [h, State.reg]
  case ret => rcases s.returnFromCall_cases with ⟨_, h⟩ | ⟨_, h⟩ <;> simp [h, State.reg]
  all_goals simp

/-! ### The events of a `Cycle` (00_scope.md R11) -/

theorem exec_events_of_draws (hi : i = .cls ∨ ∃ x y n, i = .drw x y n) (h : exec i s = .next t) :
    t.events = s.events ++ [.frameDirty] := by
  obtain rfl | ⟨x, y, n, rfl⟩ := hi
  · cases h
    rfl
  · cases h
    rfl

theorem exec_events_of_not_draws (hi : ¬ (i = .cls ∨ ∃ x y n, i = .drw x y n)) (h : exec i s = .next t) :
    t.events = s.events := by
  cases i <;> cases h
  case cls => exact absurd (.inl rfl) hi
  case drw x y n => exact absurd (.inr ⟨x, y, n, rfl⟩) hi
  case call nnn => rcases s.callTo_cases (zextAddr nnn) with ⟨_, h⟩ | ⟨_, h⟩ <;> simp [h]
  case ret => rcases s.returnFromCall_cases with ⟨_, h⟩ | ⟨_, h⟩ <;> simp [h]
  case rnd x nn => rcases s.draw_cases with ⟨b, _, h⟩ | ⟨_, h⟩ <;> simp [h]
  case ldVxMem x =>
    obtain ⟨v, h⟩ := s.loadRegs_eq (s.dataAddr 0) (x.toNat + 1)
    simp [h]
  all_goals simp

/-- Settles O59: a `Cycle` begins with no event, and what it executes or reports is all that adds one. -/
theorem eventsAreExactlyThese : Obligations.EventsAreExactlyThese := by
  intro s t b hrun hcycle
  obtain ⟨hop, hunknown⟩ := cycle_executes (some b) hrun
  refine ⟨fun h => ?unknown, fun i h => ⟨fun hi => ?draws, fun hi => ?others⟩⟩
  case unknown =>
    obtain ⟨u, hcycle', hevents, -⟩ := hunknown h
    exact Host.Outcome.next.inj (hcycle'.symm.trans hcycle) ▸ hevents
  case draws => exact exec_events_of_draws hi ((hop i h).symm.trans hcycle)
  case others => exact exec_events_of_not_draws hi ((hop i h).symm.trans hcycle)

/-! ### The random byte (41_register_immediate.md R114) -/

/-- The state with another random argument and another count of draws. -/
def State.withRandom (s : State) (r : Option Byte) (d : Nat) : State := { s with rnd := r, draws := d }

section
variable (s : State) (r : Option Byte) (d : Nat)

theorem State.skipIf_withRandom (c : Bool) : (s.withRandom r d).skipIf c = (s.skipIf c).withRandom r d := by
  cases c <;> rfl

theorem State.callTo_withRandom (w : Word) : (s.withRandom r d).callTo w = (s.callTo w).withRandom r d := by
  unfold State.callTo
  by_cases h : s.sp.val < 16
  · rw [dif_pos h]
    exact dif_pos h
  · rw [dif_neg h]
    exact dif_neg h

theorem State.returnFromCall_withRandom : (s.withRandom r d).returnFromCall = s.returnFromCall.withRandom r d := by
  unfold State.returnFromCall
  by_cases h : 0 < s.sp.val
  · rw [dif_pos h]
    exact dif_pos h
  · rw [dif_neg h]
    exact dif_neg h

theorem State.storeRegs_withRandom (base n : Nat) : (s.withRandom r d).storeRegs base n = s.storeRegs base n := by
  induction n with
  | zero => rfl
  | succ n ih =>
    rw [State.storeRegs, ih]
    rfl

theorem State.loadRegs_withRandom (base n : Nat) :
    (s.withRandom r d).loadRegs base n = (s.loadRegs base n).withRandom r d := by
  induction n with
  | zero => rfl
  | succ n ih =>
    rw [State.loadRegs, ih]
    rfl

end

/-- The execute phase commutes with a change of the two fields, for every instruction that does not draw. -/
theorem exec_withRandom (s : State) (r : Option Byte) (d : Nat) (hi : ∀ x nn, i ≠ .rnd x nn) :
    ∃ t, exec i s = .next t ∧ exec i (s.withRandom r d) = .next (t.withRandom r d) := by
  cases i <;> refine ⟨_, rfl, ?_⟩
  case rnd x nn => exact absurd rfl (hi x nn)
  case call nnn => exact congrArg Host.Outcome.next (s.callTo_withRandom r d _)
  case ret => exact congrArg Host.Outcome.next (s.returnFromCall_withRandom r d)
  case seImm | sneImm | seReg | sneReg | skp | sknp => exact congrArg Host.Outcome.next (s.skipIf_withRandom r d _)
  case ldMemVx x =>
    exact congrArg (fun m => Host.Outcome.next ((s.withRandom r d).setMem m)) (s.storeRegs_withRandom r d _ _)
  case ldVxMem x => exact congrArg Host.Outcome.next (s.loadRegs_withRandom r d _ _)
  all_goals rfl

/-- Settles O60: the execute phase of every instruction but `RND` commutes with a change of the two fields. -/
theorem randomByteReachesOnlyRnd : Obligations.RandomByteReachesOnlyRnd :=
  fun _ s r d hi => exec_withRandom s r d hi

end Sys2Proof.Machine
end
